-- ==== Sys2Proof/Word.lean ====
section
/-! DEFINITION. The widths the block works in (00_scope.md R7, 10_state.md R20). -/

namespace Sys2Proof

/-- A 32-bit word: an operation word or a register of the host window (10_state.md R21). -/
abbrev Word := BitVec 32

/-- A 16-bit value: `raw16`, or the two's-complement count of hundredths in VAL (10_state.md R24, R25). -/
abbrev Half := BitVec 16

/-- A byte on the bus, in the buffers, or in the checksum accumulator. -/
abbrev Byte := BitVec 8

/-- A 7-bit address of the two-wire bus (20_memory.md R60). -/
abbrev BusAddr := BitVec 7

/-- Eight bytes, indexed 0..7: the response buffer RB and the serial number SN (10_state.md R26, R27). -/
abbrev Bytes8 := Vector Byte 8

end Sys2Proof
end

