-- ==== Sys2Proof/Config.lean ====
section
/-! DEFINITION. What is fixed for the block (00_scope.md R5), the parameters one block is built with, and the free values:
constants without a body, of which nothing can be proved. -/

namespace Sys2Proof

/-- ADDR, the 7-bit bus address of the sensor (00_scope.md R5, 20_memory.md R60). -/
def Config.addr : BusAddr := 0x40#7

/-- POLY, the 9-bit checksum polynomial x^8+x^5+x^4+1 (00_scope.md R5, 30_encoding.md R101). -/
def Config.poly : Nat := 0x131

/-- The low eight bits of POLY, what an 8-bit accumulator XORs in (30_encoding.md R101, 40_crc.md R122). -/
def Config.polyLow : Byte := 0x31#8

/-- CRC_INIT, the initial accumulator (00_scope.md R5). -/
def Config.crcInit : Byte := 0x00#8

/-- TMO, the timeout bound in counts of the clock, per read transfer (00_scope.md R5). -/
def Config.tmo : Nat := 100

/-- T_NORMAL, the worst case the document quotes; no rule but 41_transfer.md R152 mentions it (00_scope.md R5). -/
def Config.tNormal : Nat := 85

/-- RESP_MAX, the largest response length (00_scope.md R5). -/
def Config.respMax : Nat := 8

/-- The parameters 00_scope.md R5 leaves open, fixed for one block: the width W of the clock counter (W >= 8) and
SN_CRC_CHECK. No step changes them (log 7). -/
structure Params where
  /-- W, the width in bits of the `now()` counter. -/
  w : Nat
  /-- SN_CRC_CHECK: RDSN validates the checksums inside both pages. -/
  snCrcCheck : Bool
  deriving DecidableEq, Repr

/-- W = 32 (the suggested default) and SN_CRC_CHECK = true (00_scope.md R5; log 7). -/
def Config.defaultParams : Params := { w := 32, snCrcCheck := true }

/-- FREE VALUE (log 6). What a host read of a register returns while BUSY = 1, by number of the draw: 10_state.md R39 says
"an unspecified value (a draw, which may differ between two reads)". -/
opaque Config.busyRead : Nat → Word

/-- FREE VALUE (log 5). The transport's answer to `AV()`, and to the `RD()` after it, once the script of inputs has ended, by
number of the draw: `none` for `AV` false, `some b` for `AV` true and `RD` answering `b` (93 U8: "any value (draws)"). -/
opaque Config.freeRx : Nat → Option Byte

/-- FREE VALUE (log 5). The clock's answer to `NOW()` once the script of inputs has ended, by number of the draw
(93 U9: "any value consistent with E1, E2"; here not even those two are assumed). -/
opaque Config.freeClock : Nat → Nat

end Sys2Proof
end

