-- ==== Sys2Proof/Syntax.lean ====
section
/-! DEFINITION. The fourteen operations of spec/opcode_table.json, one constructor a row (30_encoding.md R92, R94, R96). -/

namespace Sys2Proof

/-- The command of a write phase: `two = 0` is `[cmdA]`, `two = 1` is `[cmdA, cmdB]` (30_encoding.md R92). That `cmdB = 0`
where `two = 0` (R93) is in the shape: there is no second byte. -/
inductive Cmd where
  | one (a : Byte)
  | two (a b : Byte)
  deriving DecidableEq, Repr

/-- Where DECT and DECH take raw16 from: bit `b` of format I (30_encoding.md R92). That `imm16 = 0` where `b = 1` (R93) is in
the shape: there is no immediate. -/
inductive RawSource where
  /-- `#imm16` -/
  | imm (raw : Half)
  /-- `.B`: the response buffer -/
  | buffer
  deriving DecidableEq, Repr

/-- One operation (30_encoding.md R94). `rel` is the document's `release_bus`: true ends the read with a stop condition. -/
inductive Instr where
  /-- XFER: write phase, repeated start, read of `rlen` bytes (41_transfer.md R148). -/
  | xfer (cmd : Cmd) (rlen : Nat) (rel : Bool)
  /-- XWR: a write phase closed by a full stop (41_transfer.md R149). -/
  | xwr (cmd : Cmd)
  /-- CRCI: clear the accumulator (40_crc.md R123). -/
  | crci
  /-- CRCB: absorb one data byte (40_crc.md R124). -/
  | crcb (imm8 : Byte)
  /-- CRCV: compare with an expected checksum (40_crc.md R125). -/
  | crcv (imm8 : Byte)
  /-- CRCR: validate `n` bytes of the response buffer from `off` on (40_crc.md R126). -/
  | crcr (off n : Nat)
  /-- DECT: decode a temperature (43_decoder.md R207). -/
  | dect (src : RawSource)
  /-- DECH: decode a humidity (43_decoder.md R208). -/
  | dech (src : RawSource)
  /-- MEAST: measure temperature (42_protocol.md R172). -/
  | meast
  /-- MEASH: measure humidity (42_protocol.md R173). -/
  | meash
  /-- SRST: soft reset of the sensor (42_protocol.md R174). -/
  | srst
  /-- RDUR: read the user register (42_protocol.md R175). -/
  | rdur (rel : Bool)
  /-- SETRES: set the measurement resolution (42_protocol.md R176). -/
  | setres (code : BitVec 2)
  /-- RDSN: read the serial number (42_protocol.md R177). -/
  | rdsn
  deriving DecidableEq, Repr

end Sys2Proof
end

