-- ==== Sys2Proof/WellFormed.lean ====
section
/-! DEFINITION. The operand constraints that are part of legality and that the shape of `Instr` does not already hold
(30_encoding.md R93). -/

namespace Sys2Proof

/-- The instruction has an operation word: XFER needs `1 <= rlen <= 8`, CRCR needs `off + n <= 7` (30_encoding.md R93). The
two constraints that depend on state (`off + n < RLEN`, `RLEN >= 2`) are checked where the operation executes. -/
def Instr.wf : Instr → Bool
  | .xfer _ rlen _ => decide (1 ≤ rlen) && decide (rlen ≤ Config.respMax)
  | .xwr _ => true
  | .crci => true
  | .crcb _ => true
  | .crcv _ => true
  | .crcr off n => decide (off + n ≤ 7)
  | .dect _ => true
  | .dech _ => true
  | .meast => true
  | .meash => true
  | .srst => true
  | .rdur _ => true
  | .setres _ => true
  | .rdsn => true

end Sys2Proof
end

