-- ==== Sys2Proof/Decode.lean ====
section
/-! DEFINITION. The total decoder of operation words, its named rejections, and the encoder (30_encoding.md R90 to R95). -/

namespace Sys2Proof

/-- Why a word is illegal (30_encoding.md R95): its opcode is not in the map, a must-be-zero bit of a legal opcode is set, or
its operands break R93. All three raise the same IllegalOp (60_exceptions.md R224). -/
inductive IllegalWord where
  | opcode
  | mustBeZero
  | operands
  deriving DecidableEq, Repr

/-- The field of `len` bits from bit `lo` on (00_scope.md R7). -/
def field (w : Word) (lo len : Nat) : BitVec len := w.extractLsb' lo len

/-- The field value `v` in its place, bit `lo` on, of a word of zeros. -/
def put {n : Nat} (v : BitVec n) (lo : Nat) : Word := v.setWidth 32 <<< lo

/-- Bits [31:24], the opcode in every format (30_encoding.md R90). -/
def opcodeOf (w : Word) : Byte := field w 24 8

/-- The opcodes of the map (30_encoding.md R94). -/
def opcodeMap : List Byte :=
  [0x01#8, 0x02#8, 0x08#8, 0x09#8, 0x0A#8, 0x0B#8, 0x10#8, 0x11#8, 0x20#8, 0x21#8, 0x22#8, 0x23#8, 0x24#8, 0x25#8]

/-- `w & mask = match`, the test of a row of the opcode map (30_encoding.md R94). -/
def matchesRow (w mask pattern : Word) : Bool := w &&& mask == pattern

/-- The command bytes of format T: `two` (bit 22), `cmdA`, `cmdB`; none if `two = 0` and `cmdB != 0` (30_encoding.md R92, R93). -/
def decodeCmd (w : Word) : Option Cmd :=
  if field w 22 1 = 1#1 then some (.two (field w 8 8) (field w 0 8))
  else if field w 0 8 = 0#8 then some (.one (field w 8 8))
  else none

/-- The source of raw16 of format I: `b` (bit 23), `imm16`; none if `b = 1` and `imm16 != 0` (30_encoding.md R92, R93). -/
def decodeSource (w : Word) : Option RawSource :=
  if field w 23 1 = 0#1 then some (.imm (field w 0 16))
  else if field w 0 16 = 0#16 then some .buffer
  else none

/-- The instruction whose operands were read, if they are legal together (30_encoding.md R93). -/
def checked (i : Option Instr) : Except IllegalWord Instr :=
  match i with
  | some i => if i.wf then .ok i else .error .operands
  | none => .error .operands

/-- The decoder: total on 32-bit words (30_encoding.md R90); one line a row of the opcode map (R94), everything else illegal
(R95). -/
def decode (w : Word) : Except IllegalWord Instr :=
  if matchesRow w 0xFF300000#32 0x01000000#32 then
    checked ((decodeCmd w).map fun c => .xfer c (field w 16 4).toNat (field w 23 1 == 1#1))
  else if matchesRow w 0xFFBF0000#32 0x02000000#32 then checked ((decodeCmd w).map .xwr)
  else if matchesRow w 0xFFFFFFFF#32 0x08000000#32 then checked (some .crci)
  else if matchesRow w 0xFFFFFF00#32 0x09000000#32 then checked (some (.crcb (field w 0 8)))
  else if matchesRow w 0xFFFFFF00#32 0x0A000000#32 then checked (some (.crcv (field w 0 8)))
  else if matchesRow w 0xFFFFF0F0#32 0x0B000000#32 then checked (some (.crcr (field w 8 4).toNat (field w 0 4).toNat))
  else if matchesRow w 0xFF7F0000#32 0x10000000#32 then checked ((decodeSource w).map .dect)
  else if matchesRow w 0xFF7F0000#32 0x11000000#32 then checked ((decodeSource w).map .dech)
  else if matchesRow w 0xFFFFFFFF#32 0x20000000#32 then checked (some .meast)
  else if matchesRow w 0xFFFFFFFF#32 0x21000000#32 then checked (some .meash)
  else if matchesRow w 0xFFFFFFFF#32 0x22000000#32 then checked (some .srst)
  else if matchesRow w 0xFF7FFFFF#32 0x23000000#32 then checked (some (.rdur (field w 23 1 == 1#1)))
  else if matchesRow w 0xFFFFFFFC#32 0x24000000#32 then checked (some (.setres (field w 0 2)))
  else if matchesRow w 0xFFFFFFFF#32 0x25000000#32 then checked (some .rdsn)
  else if opcodeMap.contains (opcodeOf w) then .error .mustBeZero
  else .error .opcode

/-- The instruction of a row of spec/opcode_table.json whose `nbits` bits are `w`, as the decoder reads it. -/
def decodeTableWord (nbits w : Nat) : Option Instr :=
  if nbits ≤ 32 then
    match decode (BitVec.ofNat 32 (w % 2 ^ nbits)) with
    | .ok i => some i
    | .error _ => none
  else none

/-- The opcode of an instruction (30_encoding.md R94). -/
def Instr.opcode : Instr → Byte
  | .xfer _ _ _ => 0x01#8
  | .xwr _ => 0x02#8
  | .crci => 0x08#8
  | .crcb _ => 0x09#8
  | .crcv _ => 0x0A#8
  | .crcr _ _ => 0x0B#8
  | .dect _ => 0x10#8
  | .dech _ => 0x11#8
  | .meast => 0x20#8
  | .meash => 0x21#8
  | .srst => 0x22#8
  | .rdur _ => 0x23#8
  | .setres _ => 0x24#8
  | .rdsn => 0x25#8

/-- The word of format T: opcode, rel, two, 00, rlen, cmdA, cmdB (30_encoding.md R91, R96). -/
def formatT (op : Byte) (rel : Bool) (rlen : BitVec 4) : Cmd → Word
  | .one a => put op 24 ||| put (BitVec.ofBool rel) 23 ||| put rlen 16 ||| put a 8
  | .two a b => put op 24 ||| put (BitVec.ofBool rel) 23 ||| put 1#1 22 ||| put rlen 16 ||| put a 8 ||| put b 0

/-- The word of formats Z and B: opcode, imm8 (zero in format Z) (30_encoding.md R91, R96). -/
def formatB (op : Byte) (imm8 : Byte) : Word := put op 24 ||| put imm8 0

/-- The word of format R: opcode, off, n (30_encoding.md R91, R96). -/
def formatR (op : Byte) (off n : BitVec 4) : Word := put op 24 ||| put off 8 ||| put n 0

/-- The word of format I: opcode, b, imm16 (30_encoding.md R91, R96). -/
def formatI (op : Byte) : RawSource → Word
  | .imm raw => put op 24 ||| put raw 0
  | .buffer => put op 24 ||| put 1#1 23

/-- The word of format P: opcode, rel, code (30_encoding.md R91, R96). -/
def formatP (op : Byte) (rel : Bool) (code : BitVec 2) : Word := put op 24 ||| put (BitVec.ofBool rel) 23 ||| put code 0

/-- The operation word of a well-formed instruction (30_encoding.md R91, R94, R96). -/
def encode (i : Instr) : Word :=
  match i with
  | .xfer cmd rlen rel => formatT 0x01#8 rel (BitVec.ofNat 4 rlen) cmd
  | .xwr cmd => formatT 0x02#8 false 0#4 cmd
  | .crci => formatB 0x08#8 0#8
  | .crcb imm8 => formatB 0x09#8 imm8
  | .crcv imm8 => formatB 0x0A#8 imm8
  | .crcr off n => formatR 0x0B#8 (BitVec.ofNat 4 off) (BitVec.ofNat 4 n)
  | .dect src => formatI 0x10#8 src
  | .dech src => formatI 0x11#8 src
  | .meast => formatB 0x20#8 0#8
  | .meash => formatB 0x21#8 0#8
  | .srst => formatB 0x22#8 0#8
  | .rdur rel => formatP 0x23#8 rel 0#2
  | .setres code => formatP 0x24#8 false code
  | .rdsn => formatB 0x25#8 0#8

end Sys2Proof
end

