-- ==== Sys2Proof/Machine/State.lean ====
section
/-! DEFINITION. The state of the block (10_state.md R20 to R38), of its two interfaces (20_memory.md R60 to R72), and reset. -/

namespace Sys2Proof.Machine

/-- The error kinds (30_encoding.md R100, 60_exceptions.md R220). -/
inductive ErrKind where
  | none
  | timeout
  | checksumMismatch
  | deviceAbsent
  | illegalOp
  deriving DecidableEq, Repr

/-- PH, the sequencer phase (10_state.md R33). -/
inductive Phase where
  /-- no operation running -/
  | idle
  /-- emitting BW, WB, EW -/
  | write
  /-- the read is requested; T0 is still to be sampled -/
  | req
  /-- inside the poll loop -/
  | poll
  /-- validating, decoding, assembling results -/
  | post
  deriving DecidableEq, Repr

/-- The page of the serial number RDSN is reading (42_protocol.md R177). -/
inductive Page where
  | a
  | b
  deriving DecidableEq, Repr

/-- One call of a bus primitive, with its arguments and, for `av`, `rd`, `now`, its answer (00_scope.md R9, R12). -/
inductive Event where
  /-- BW: begin_write -/
  | bw (addr : BusAddr)
  /-- WB: write_byte -/
  | wb (b : Byte)
  /-- EW: end_write -/
  | ew (sendStop : Bool)
  /-- BR: begin_read -/
  | br (addr : BusAddr) (count : Nat) (sendStop : Bool)
  /-- AV: byte_available, answered -/
  | av (answer : Bool)
  /-- RD: read_byte, answered -/
  | rd (answer : Byte)
  /-- NOW: now, answered -/
  | now (answer : Nat)
  deriving DecidableEq, Repr

/-- What comes to the block from outside (00_scope.md R6; log 1, 3, 13). -/
inductive Input where
  /-- the host's MemWrite(off, n, v) -/
  | write (off n : Nat) (v : Word)
  /-- the host's MemRead(off, n) -/
  | read (off n : Nat)
  /-- further answers of the transport and of the clock -/
  | answers (rx : List (Option Byte)) (clock : List Nat)
  /-- reset is asserted while no bus primitive is under way (70_reset_and_hazards.md R260) -/
  | reset
  /-- the host writes `w` to OP, and reset is asserted once the block has made `k` bus primitive calls of it (R260) -/
  | writeThenReset (w : Word) (k : Nat)
  /-- further answers come, as in `answers`, and reset is asserted once the running operation, going on with them, has made `k` more bus
  primitive calls (R260) -/
  | answersThenReset (rx : List (Option Byte)) (clock : List Nat) (k : Nat)
  deriving DecidableEq, Repr

/-- The state. Names are those of 10_state.md R20 in lower case; one flat record of plain data. -/
structure State where
  /-- the parameters the block is built with (00_scope.md R5; log 7); CFG is computed from them (R31) -/
  params : Params
  /-- OP, the operation word last accepted (R22) -/
  op : Word
  /-- STATUS.BUSY (R23) -/
  busy : Bool
  /-- STATUS.DONE (R23) -/
  done : Bool
  /-- STATUS.CRCOK (R23) -/
  crcok : Bool
  /-- STATUS.HELD (R23, R34) -/
  held : Bool
  /-- STATUS.ERR (R23) -/
  err : ErrKind
  /-- STATUS.RLEN, the number of valid bytes in RB (R23) -/
  rlen : Nat
  /-- RB[0..7], the response buffer (R26) -/
  rb : Bytes8
  /-- RAW (R24) -/
  raw : Half
  /-- VAL, an s16 (R25) -/
  val : Half
  /-- SN[0..7], the serial number (R27) -/
  sn : Bytes8
  /-- URD, the user-register byte last read (R28) -/
  urd : Byte
  /-- URW, the user-register byte SETRES last wrote (R28) -/
  urw : Byte
  /-- ACC, the checksum accumulator (R29) -/
  acc : Byte
  /-- T0, the start timestamp, a uW (R30; log 9) -/
  t0 : Nat
  /-- PH, the sequencer phase (R33) -/
  ph : Phase
  /-- the count of bytes the poll loop has taken (41_transfer.md R140; log 10) -/
  cnt : Nat
  /-- the page RDSN is at (42_protocol.md R177; log 10) -/
  page : Page
  /-- a0, a2, a4, a6, "held inside the sequencer" (42_protocol.md R177; log 10) -/
  latch : Vector Byte 4
  /-- the event history, oldest first (00_scope.md R12) -/
  events : List Event
  /-- the transport's answers to `AV` and, where a byte waits, to the `RD` after it, not yet asked for (20_memory.md R72; log 3) -/
  rx : List (Option Byte)
  /-- the clock's answers to `NOW` not yet asked for (20_memory.md R72; log 3) -/
  clock : List Nat
  /-- what comes from outside, oldest first (log 1) -/
  script : List Input
  /-- the model's record of the host's reads, oldest first: offset and word returned (log 6) -/
  hostReads : List (Nat × Word)
  /-- the model's own counter of free values drawn (log 5, 6) -/
  draws : Nat
  deriving DecidableEq, Repr

/-- No step of this machine faults: every error of the spec ends the operation in a next state (60_exceptions.md R220, R227:
"control goes nowhere: the block returns to IDLE"). The type is closed and empty. -/
inductive Fault where
  deriving DecidableEq, Repr

/-- Why a step is refused. -/
inductive Refusal where
  /-- `exec` raises it for an operation that has no meaning yet; safe. -/
  | notModelled (mnemonic : String)
  /-- A host access that is not an aligned 32-bit word inside the window, raised by the step that meets it in the script: "the
  block has no behaviour for them, and a model refuses them" (20_memory.md R62); safe (log 11). -/
  | badAccess (off n : Nat)
  deriving DecidableEq, Repr

/-- Eight bytes 0x00. -/
def zeros8 : Bytes8 := Vector.replicate 8 0#8

/-- The block right after reset (10_state.md R38) with the parameters `p`, and no input from outside yet. The fields R38 does
not name (cnt, page, latch, and the model's own records) are log 10's. -/
def State.resetOf (p : Params) : State where
  params := p
  op := 0x00000000#32
  busy := false
  done := false
  crcok := false
  held := false
  err := .none
  rlen := 0
  rb := zeros8
  raw := 0x0000#16
  val := 0x0000#16
  sn := zeros8
  urd := 0x00#8
  urw := 0x00#8
  acc := Config.crcInit
  t0 := 0
  ph := .idle
  cnt := 0
  page := .a
  latch := Vector.replicate 4 0#8
  events := []
  rx := []
  clock := []
  script := []
  hostReads := []
  draws := 0

/-- The machine right after reset, with the default parameters (10_state.md R38, 00_scope.md R5). -/
def State.reset : State := State.resetOf Config.defaultParams

end Sys2Proof.Machine
end

