-- ==== Sys2Proof/Machine/Flags.lean ====
section
/-! DEFINITION. What the status flags and error tests are computed from: the checksum (40_crc.md R120 to R122), the elapsed
time (41_transfer.md R145, R150), and the STATUS word (10_state.md R23). -/

namespace Sys2Proof.Machine

/-- One iteration on an 8-bit accumulator: `((a << 1) & 0xFF) ^ (0x31 if a[7] = 1 else 0)` (40_crc.md R122). -/
def crcStep8 (a : Byte) : Byte :=
  if a &&& 0x80#8 = 0#8 then a <<< 1 else (a <<< 1) ^^^ Config.polyLow

/-- `crc_byte8(acc, d)`: eight iterations on `acc ^ d` (40_crc.md R122). -/
def crcByte8 (acc d : Byte) : Byte :=
  Nat.repeat crcStep8 8 (acc ^^^ d)

/-- `crc(data)` in the 8-bit form, from accumulator 0 (40_crc.md R121, R122). -/
def crc (data : List Byte) : Byte := data.foldl crcByte8 Config.crcInit

/-- `validate(data, expected)`, the pure function (40_crc.md R121). -/
def validates (data : List Byte) (expected : Byte) : Bool := crc data == expected

/-- One iteration of the document's "integer accumulator", whose shift is not truncated (40_crc.md R120). -/
def crcStepWide (acc : Nat) : Nat :=
  if acc &&& 0x80 = 0 then acc <<< 1 else (acc <<< 1) ^^^ Config.poly

/-- `crc_byte(acc, d)` on the document's accumulator (40_crc.md R120). -/
def crcByteWide (acc : Nat) (d : Byte) : Nat :=
  Nat.repeat crcStepWide 8 (acc ^^^ d.toNat)

/-- `crc(data)` on the document's accumulator, masked at the end (40_crc.md R121). -/
def crcWide (data : List Byte) : Nat := data.foldl crcByteWide 0 &&& 0xFF

/-- `elapsed(t0, t) = (t - t0) mod 2^W` (41_transfer.md R150). -/
def elapsed (w t0 t : Nat) : Nat := (((t : Int) - (t0 : Int)) % (2 : Int) ^ w).toNat

/-- The timeout test: `elapsed(T0, t) >= 100`, unsigned (41_transfer.md R145). -/
def timedOut (w t0 t : Nat) : Bool := decide (Config.tmo ≤ elapsed w t0 t)

/-- The number of an error kind in STATUS.ERR (30_encoding.md R100). -/
def ErrKind.code : ErrKind → BitVec 3
  | .none => 0#3
  | .timeout => 1#3
  | .checksumMismatch => 2#3
  | .deviceAbsent => 3#3
  | .illegalOp => 4#3

/-- The STATUS word: BUSY[0] DONE[1] CRCOK[2] HELD[3] ERR[6:4] RLEN[11:8], reserved bits 0 (10_state.md R23). -/
def packStatus (busy done crcok held : Bool) (err : BitVec 3) (rlen : BitVec 4) : Word :=
  put (BitVec.ofBool busy) 0 ||| put (BitVec.ofBool done) 1 ||| put (BitVec.ofBool crcok) 2 ||| put (BitVec.ofBool held) 3 |||
    put err 4 ||| put rlen 8

/-- STATUS as it stands. -/
def State.status (s : State) : Word :=
  packStatus s.busy s.done s.crcok s.held s.err.code (BitVec.ofNat 4 s.rlen)

end Sys2Proof.Machine
end

