-- ==== Sys2Proof/Machine/Operands.lean ====
section
/-! DEFINITION. The operand forms: command bytes, the source of raw16, the bytes of RB an operation names, the byte SETRES
writes, the pages of the serial number. -/

namespace Sys2Proof.Machine

/-- The command bytes in sending order (30_encoding.md R92, 20_memory.md R61(c)). -/
def cmdBytes : Cmd → List Byte
  | .one a => [a]
  | .two a b => [a, b]

/-- `(first << 8) | second`: big-endian assembly of two measurement bytes, status bits unmasked (20_memory.md R61(a),
43_decoder.md R201). -/
def raw16Of (first second : Byte) : Half := first.setWidth 16 <<< 8 ||| second.setWidth 16

/-- raw16 of RB[0], RB[1]. -/
def State.bufferRaw (s : State) : Half := raw16Of s.rb[0] s.rb[1]

/-- The raw16 operand of DECT and DECH; none where the form is `.B` and RB[0], RB[1] are not received bytes
(43_decoder.md R207, R208). -/
def State.rawOperand (s : State) : RawSource → Option Half
  | .imm raw => some raw
  | .buffer => if s.rlen < 2 then none else some s.bufferRaw

/-- The data bytes `RB[off .. off+n-1]` of CRCR (40_crc.md R126). -/
def State.bufferSlice (s : State) (off n : Nat) : List Byte := (s.rb.toList.drop off).take n

/-- The byte `RB[i]`, for an index an operation word computes (`off + n`, at most 7 in a well-formed CRCR; log 15). -/
def State.bufferByte (s : State) (i : Nat) : Byte := s.rb.toList.getD i 0#8

/-- `(URD & 0x3F) | (code << 6)` (42_protocol.md R176). -/
def withResolution (urd : Byte) (code : BitVec 2) : Byte := (urd &&& 0x3F#8) ||| (code.setWidth 8 <<< 6)

/-- The data bytes of page A: offsets 0, 2, 4, 6 (42_protocol.md R177). -/
def pageAData (rb : Bytes8) : Vector Byte 4 := #v[rb[0], rb[2], rb[4], rb[6]]

/-- The checksums of page A in the order they are tested: each data byte against the byte after it (42_protocol.md R177). -/
def pageAChecks (rb : Bytes8) : List (List Byte × Byte) :=
  [([rb[0]], rb[1]), ([rb[2]], rb[3]), ([rb[4]], rb[5]), ([rb[6]], rb[7])]

/-- The checksums of page B in the order they are tested: offsets 0, 1 against 2, and 3, 4 against 5 (42_protocol.md R177). -/
def pageBChecks (rb : Bytes8) : List (List Byte × Byte) :=
  [([rb[0], rb[1]], rb[2]), ([rb[3], rb[4]], rb[5])]

/-- `[PageB[3], PageB[4], PageA[0], PageA[2], PageA[4], PageA[6], PageB[0], PageB[1]]`, byte 0 most significant
(42_protocol.md R177). -/
def reassemble (a : Vector Byte 4) (rb : Bytes8) : Bytes8 :=
  #v[rb[3], rb[4], a[0], a[1], a[2], a[3], rb[0], rb[1]]

/-- The phase an accepted operation starts in: WRITE if it uses the bus, else POST (10_state.md R33, 60_exceptions.md R227). -/
def firstPhase : Instr → Phase
  | .xfer _ _ _ => .write
  | .xwr _ => .write
  | .crci => .post
  | .crcb _ => .post
  | .crcv _ => .post
  | .crcr _ _ => .post
  | .dect _ => .post
  | .dech _ => .post
  | .meast => .write
  | .meash => .write
  | .srst => .write
  | .rdur _ => .write
  | .setres _ => .write
  | .rdsn => .write

end Sys2Proof.Machine
end

