-- ==== Sys2Proof/Machine/Ops.lean ====
section
/-! DEFINITION. The named operations the meanings share: acceptance and completion (60_exceptions.md R227), the bus phases and
the poll loop of the transfer engine (41_transfer.md R140 to R149), validation (40_crc.md R121), reset
(70_reset_and_hazards.md R260). -/

namespace Sys2Proof.Machine

/-! ## Acceptance and completion: what stands for taking an exception and returning from one -/

/-- Acceptance of a legal word: `OP <- word`, `BUSY <- 1`, `DONE <- 0`, `ERR <- 0`, PH leaves IDLE; "every other register keeps
its value until the operation's own pseudocode writes it" (60_exceptions.md R227). -/
def State.accept (s : State) (w : Word) (ph : Phase) : State :=
  { s with op := w, busy := true, done := false, err := .none, ph := ph }

/-- Completion with the error kind `e`, by reaching the end of the pseudocode (`.none`) or by `raise e`: `ERR <- code of e`,
`DONE <- 1`, `BUSY <- 0`, `PH <- IDLE`, and nothing else (60_exceptions.md R227). No state is saved and control goes nowhere. -/
def State.finish (s : State) (e : ErrKind) : State :=
  { s with err := e, done := true, busy := false, ph := .idle }

/-- An illegal word: acceptance and completion coincide; `OP <- word`, `DONE <- 1`, `ERR <- 4`, no event, no other register
(60_exceptions.md R224). -/
def State.rejectWord (s : State) (w : Word) : State :=
  { s with op := w, done := true, err := .illegalOp }

/-! ## Bus phases -/

/-- The events of a write phase: `BW(0x40)`, one `WB` a command byte, `EW(stop)`, with nothing between them
(41_transfer.md R141, R149). -/
def writePhase (cmd : List Byte) (stop : Bool) : List Event :=
  .bw Config.addr :: (cmd.map .wb ++ [.ew stop])

/-- `xwr(cmd)`: a write phase closed by a full stop; `HELD <- 0` (41_transfer.md R149). -/
def State.xwr (s : State) (cmd : List Byte) : State :=
  { s with held := false, events := s.events ++ writePhase cmd true }

/-- The write phase and the read request of `xfer`: RB and RLEN cleared, write phase without stop, `HELD <- 1`, `BR`
(41_transfer.md R140 to R142). -/
def State.beginRead (s : State) (cmd : List Byte) (n : Nat) (rel : Bool) : State :=
  { s with
    rb := zeros8
    rlen := 0
    held := true
    ph := .req
    cnt := 0
    events := s.events ++ writePhase cmd false ++ [.br Config.addr n rel] }

/-- `NOW()` answered by `t`, a uW (00_scope.md R9, 20_memory.md R71 E1). -/
def State.sampled (s : State) (t : Nat) : Nat := t % 2 ^ s.params.w

/-- `T0 <- NOW()`, one sample after `BR` and before the first `AV()` (41_transfer.md R143); `ts` are the answers left. -/
def State.sampleStart (s : State) (t : Nat) (ts : List Nat) : State :=
  { s with
    t0 := s.sampled t
    ph := .poll
    clock := ts
    events := s.events ++ [.now (s.sampled t)] }

/-- `AV()` answered true: `RB[cnt] <- RD() ; cnt <- cnt + 1` (41_transfer.md R144); `rest` are the answers left. -/
def State.takeByte (s : State) (b : Byte) (rest : List (Option Byte)) : State :=
  { s with
    rb := s.rb.setIfInBounds s.cnt b
    cnt := s.cnt + 1
    rx := rest
    events := s.events ++ [.av true, .rd b] }

/-- `AV()` answered false, then `t <- NOW()` (41_transfer.md R144, R145); `rest` and `ts` are the answers left. -/
def State.pollEmpty (s : State) (rest : List (Option Byte)) (t : Nat) (ts : List Nat) : State :=
  { s with
    rx := rest
    clock := ts
    events := s.events ++ [.av false, .now (s.sampled t)] }

/-- The successful end of `xfer`: `RLEN <- rlen ; HELD <- not rel` (41_transfer.md R146). -/
def State.readDone (s : State) (n : Nat) (rel : Bool) : State :=
  { s with rlen := n, held := !rel, ph := .post }

/-- The timed-out end of `xfer`: the bytes taken so far are discarded, `HELD <- 1`, no further bus primitive
(41_transfer.md R145). -/
def State.readTimedOut (s : State) : State :=
  { s with rb := zeros8, rlen := 0, held := true, ph := .post }

/-! ## The transfer engine -/

/-- How `xfer` stands: it returned `Ok`, it returned `Timeout`, or it waits for an answer the environment has not given yet
(log 2). -/
inductive Transfer where
  | ok (s : State)
  | timeout (s : State)
  | pending (s : State)
  deriving DecidableEq, Repr

/-- The poll loop on the transport's answers (41_transfer.md R140, R144 to R146): drain while bytes wait, then test completion,
then sample the clock and test the timeout. It leaves only by success or timeout (R147, R151); without an answer it stays
(log 2, 4). The list is the state's own `rx`, given apart so that the loop is structural. -/
def pollLoop (n : Nat) (rel : Bool) : List (Option Byte) → State → Transfer
  | [], s => if s.cnt = n then .ok (s.readDone n rel) else .pending s
  | a :: rest, s =>
    if s.cnt = n then .ok (s.readDone n rel)
    else
      match a with
      | some b => pollLoop n rel rest (s.takeByte b rest)
      | none =>
        match s.clock with
        | [] => .pending s
        | t :: ts =>
          let s' := s.pollEmpty rest t ts
          if timedOut s.params.w s.t0 (s.sampled t) then .timeout s'.readTimedOut else pollLoop n rel rest s'

/-- From the read request on: sample T0, then poll (41_transfer.md R143, R144); or go on polling. -/
def transfer (n : Nat) (rel : Bool) (s : State) : Transfer :=
  match s.ph with
  | .poll => pollLoop n rel s.rx s
  | _ =>
    match s.clock with
    | [] => .pending s
    | t :: ts => pollLoop n rel s.rx (s.sampleStart t ts)

/-- A read transfer is under way: the operation waits inside `xfer` (phase REQ or POLL). -/
def State.inTransfer (s : State) : Bool :=
  match s.ph with
  | .req => true
  | .poll => true
  | .idle => false
  | .write => false
  | .post => false

/-- `xfer(cmd, rlen, rel)` (41_transfer.md R140), begun here or gone on with where it waits. -/
def xfer (cmd : List Byte) (n : Nat) (rel : Bool) (s : State) : Transfer :=
  transfer n rel (if s.inTransfer then s else s.beginRead cmd n rel)

/-- What an operation does before its first transfer: done once, when it starts, not when it is gone on with. -/
def State.opening (s : State) (pre : State → State) : State := if s.inTransfer then s else pre s

/-! ## Validation -/

/-- `validate(data, e)`: `ACC <- crc(data) ; CRCOK <- (ACC == e)` (42_protocol.md, opening; 40_crc.md R121). -/
def State.validate (s : State) (data : List Byte) (expected : Byte) : State :=
  { s with acc := crc data, crcok := validates data expected }

/-- Validations in order, ended by the first that fails; the Bool says whether all passed (42_protocol.md R177). -/
def validateAll : List (List Byte × Byte) → State → State × Bool
  | [], s => (s, true)
  | (data, expected) :: rest, s =>
    if validates data expected then validateAll rest (s.validate data expected) else (s.validate data expected, false)

/-- The checksums of a page, tested only where SN_CRC_CHECK is true (42_protocol.md R177). -/
def checkPage (checks : List (List Byte × Byte)) (s : State) : State × Bool :=
  if s.params.snCrcCheck then validateAll checks s else (s, true)

/-! ## Reset -/

/-- Reset of the block: every piece of its state to its reset value; the environment and the records of what has happened are
not the block's and stay (70_reset_and_hazards.md R260, 10_state.md R38; log 13). -/
def State.hardReset (s : State) : State :=
  { State.resetOf s.params with
    events := s.events
    rx := s.rx
    clock := s.clock
    script := s.script
    hostReads := s.hostReads
    draws := s.draws }

/-- The event is an answer of `AV`. -/
def Event.isAv : Event → Bool
  | .av _ => true
  | .bw _ => false
  | .wb _ => false
  | .ew _ => false
  | .br _ _ _ => false
  | .rd _ => false
  | .now _ => false

/-- The event is an answer of `NOW`. -/
def Event.isNow : Event → Bool
  | .now _ => true
  | .bw _ => false
  | .wb _ => false
  | .ew _ => false
  | .br _ _ _ => false
  | .av _ => false
  | .rd _ => false

/-- Reset `k` bus primitive calls into an operation that began, or went on, at `s` and, undisturbed, would have led to `s'`: the calls made
are the first `k`, the answers they asked for are gone, no further primitive is issued, and the block is reset
(70_reset_and_hazards.md R260: "abandons it at once"; log 13). -/
def State.cutShort (s : State) (k : Nat) (s' : State) : State :=
  let made := (s'.events.drop s.events.length).take k
  { s.hardReset with
    events := s.events ++ made
    rx := s.rx.drop (made.countP Event.isAv)
    clock := s.clock.drop (made.countP Event.isNow) }

end Sys2Proof.Machine
end

