-- ==== Sys2Proof/Machine/Crc.lean ====
section
/-! DEFINITION. The meanings of CRCI, CRCB, CRCV, CRCR (40_crc.md R123 to R126). -/

namespace Sys2Proof.Machine

/-- CRCI: `ACC <- 0` (40_crc.md R123). -/
def execCrci (s : State) : Host.Outcome State Fault Refusal :=
  .next ({ s with acc := Config.crcInit }.finish .none)

/-- CRCB: `ACC <- crc_byte8(ACC, imm8)` (40_crc.md R124). -/
def execCrcb (imm8 : Byte) (s : State) : Host.Outcome State Fault Refusal :=
  .next ({ s with acc := crcByte8 s.acc imm8 }.finish .none)

/-- CRCV: `CRCOK <- (ACC == imm8)`; a mismatch is not an error (40_crc.md R125). -/
def execCrcv (imm8 : Byte) (s : State) : Host.Outcome State Fault Refusal :=
  .next ({ s with crcok := s.acc == imm8 }.finish .none)

/-- CRCR: validate `RB[off .. off+n-1]` against `RB[off+n]`; IllegalOp by value if that byte was not received (40_crc.md R126). -/
def execCrcr (off n : Nat) (s : State) : Host.Outcome State Fault Refusal :=
  .next
    (if s.rlen ≤ off + n then s.finish .illegalOp
     else (s.validate (s.bufferSlice off n) (s.bufferByte (off + n))).finish .none)

end Sys2Proof.Machine
end

