-- ==== Sys2Proof/Machine/Engine.lean ====
section
/-! DEFINITION. The meanings of the transfer engine's operations XFER and XWR (41_transfer.md R148, R149). -/

namespace Sys2Proof.Machine

/-- XFER: `r <- xfer(cmd, rlen, rel) ; if r == Timeout: raise Timeout` (41_transfer.md R148). -/
def execXfer (cmd : Cmd) (rlen : Nat) (rel : Bool) (s : State) : Host.Outcome State Fault Refusal :=
  .next
    (match xfer (cmdBytes cmd) rlen rel s with
     | .pending s' => s'
     | .timeout s' => s'.finish .timeout
     | .ok s' => s'.finish .none)

/-- XWR: `xwr(cmd)`; it cannot be seen to fail (41_transfer.md R149). -/
def execXwr (cmd : Cmd) (s : State) : Host.Outcome State Fault Refusal :=
  .next ((s.xwr (cmdBytes cmd)).finish .none)

end Sys2Proof.Machine
end

