-- ==== Sys2Proof/Machine/Decoder.lean ====
section
/-! DEFINITION. The decoder's two functions and the meanings of DECT and DECH (43_decoder.md R203, R207, R208). -/

namespace Sys2Proof.Machine

/-- `((gain * raw16 + 32768) >> 16) - offset` on integers: the shape of both transfer functions (43_decoder.md R203). -/
def linearDecode (gain offset : Nat) (raw : Half) : Int :=
  (((gain * raw.toNat + 32768) >>> 16 : Nat) : Int) - (offset : Int)

/-- `decT(raw16)`, hundredths of a degree Celsius (43_decoder.md R203). -/
def decT (raw : Half) : Int := linearDecode 17572 4685 raw

/-- `decH(raw16)`, hundredths of a percent relative humidity (43_decoder.md R203). -/
def decH (raw : Half) : Int := linearDecode 12500 600 raw

/-- An integer as the s16 pattern VAL holds; no value of `decT` or `decH` overflows (43_decoder.md R205). -/
def s16 (v : Int) : Half := BitVec.ofInt 16 v

/-- `RAW <- raw16 ; VAL <- dec(raw16)` (43_decoder.md R207, R208). -/
def State.setReading (s : State) (raw : Half) (v : Int) : State :=
  { s with raw := raw, val := s16 v }

/-- The shape of DECT and DECH: IllegalOp by value where the operand is not there, else RAW and VAL. -/
def decodeReading (dec : Half → Int) (src : RawSource) (s : State) : State :=
  match s.rawOperand src with
  | none => s.finish .illegalOp
  | some raw => (s.setReading raw (dec raw)).finish .none

/-- DECT #imm16 / DECT.B (43_decoder.md R207). -/
def execDect (src : RawSource) (s : State) : Host.Outcome State Fault Refusal :=
  .next (decodeReading decT src s)

/-- DECH #imm16 / DECH.B (43_decoder.md R208). -/
def execDech (src : RawSource) (s : State) : Host.Outcome State Fault Refusal :=
  .next (decodeReading decH src s)

end Sys2Proof.Machine
end

