-- ==== Sys2Proof/Machine/Protocol.lean ====
section
/-! DEFINITION. The meanings of the protocol operations MEAST, MEASH, SRST, RDUR, SETRES, RDSN (42_protocol.md R172 to R177),
and the sensor's commands they send (30_encoding.md R97). -/

namespace Sys2Proof.Machine

/-- trigger-temperature-hold (30_encoding.md R97). -/
def cmdTemperature : List Byte := [0xE3#8]
/-- trigger-humidity-hold. -/
def cmdHumidity : List Byte := [0xE5#8]
/-- read-user-register. -/
def cmdReadUser : List Byte := [0xE7#8]
/-- write-user-register, followed by one data byte. -/
def cmdWriteUser (v : Byte) : List Byte := [0xE6#8, v]
/-- soft-reset. -/
def cmdSoftReset : List Byte := [0xFE#8]
/-- read-serial-page-A. -/
def cmdPageA : List Byte := [0xFA#8, 0x0F#8]
/-- read-serial-page-B. -/
def cmdPageB : List Byte := [0xFC#8, 0xC9#8]

/-! ## Measurements -/

/-- `RAW <- 0 ; VAL <- 0`, how a measurement opens (42_protocol.md R172). -/
def State.clearReading (s : State) : State := { s with raw := 0#16, val := 0#16 }

/-- After the three bytes of a measurement arrived: validate, then RAW and VAL (42_protocol.md R172, R173). -/
def concludeMeasurement (dec : Half → Int) (s : State) : State :=
  let s' := s.validate [s.rb[0], s.rb[1]] s.rb[2]
  if s'.crcok then (s'.setReading s'.bufferRaw (dec s'.bufferRaw)).finish .none else s'.finish .checksumMismatch

/-- The shape of MEAST and MEASH (42_protocol.md R172, R173). -/
def runMeasurement (cmd : List Byte) (dec : Half → Int) (s : State) : State :=
  match xfer cmd 3 true (s.opening State.clearReading) with
  | .pending s' => s'
  | .timeout s' => s'.finish .timeout
  | .ok s' => concludeMeasurement dec s'

/-- MEAST (42_protocol.md R172). -/
def execMeast (s : State) : Host.Outcome State Fault Refusal := .next (runMeasurement cmdTemperature decT s)

/-- MEASH (42_protocol.md R173). -/
def execMeash (s : State) : Host.Outcome State Fault Refusal := .next (runMeasurement cmdHumidity decH s)

/-! ## Soft reset -/

/-- SRST: `xwr([0xFE])`, never an error, and the block's own registers are not reset (42_protocol.md R174). -/
def execSrst (s : State) : Host.Outcome State Fault Refusal := .next ((s.xwr cmdSoftReset).finish .none)

/-! ## The user register -/

/-- `rdur(rel)`, with what its caller does with the byte: 0 after a timeout, else RB[0] (42_protocol.md R175). -/
def readUser (rel : Bool) (conclude : Byte → State → State) (s : State) : State :=
  match xfer cmdReadUser 1 rel s with
  | .pending s' => s'
  | .timeout s' => conclude 0#8 s'
  | .ok s' => conclude s'.rb[0] s'

/-- The error RDUR and SETRES end with: DeviceAbsent on the sentinel 0 (60_exceptions.md R223). -/
def absence (urd : Byte) : ErrKind := if urd = 0#8 then .deviceAbsent else .none

/-- RDUR after its read: `URD <- rdur(rel) ; if URD == 0: raise DeviceAbsent` (42_protocol.md R175). -/
def concludeRdur (v : Byte) (s : State) : State := { s with urd := v }.finish (absence v)

/-- RDUR R|H (42_protocol.md R175). -/
def execRdur (rel : Bool) (s : State) : Host.Outcome State Fault Refusal := .next (readUser rel concludeRdur s)

/-- SETRES after its read: URD, URW, the write-back in every case, and only then DeviceAbsent (42_protocol.md R176). -/
def concludeSetres (code : BitVec 2) (v : Byte) (s : State) : State :=
  ({ s with urd := v, urw := withResolution v code }.xwr (cmdWriteUser (withResolution v code))).finish (absence v)

/-- SETRES code: the read holds the bus (42_protocol.md R176). -/
def execSetres (code : BitVec 2) (s : State) : Host.Outcome State Fault Refusal :=
  .next (readUser false (concludeSetres code) s)

/-! ## The serial number -/

/-- `SN[0..7] <- 0`, how RDSN opens, at page A (42_protocol.md R177). -/
def State.clearSerial (s : State) : State := { s with sn := zeros8, page := .a }

/-- `a0 <- RB[0] ; a2 <- RB[2] ; a4 <- RB[4] ; a6 <- RB[6]`, and on to page B (42_protocol.md R177). -/
def State.latchPageA (s : State) : State := { s with latch := pageAData s.rb, page := .b }

/-- After page B arrived: its checksums, then `SN <- [...]` (42_protocol.md R177). -/
def concludeSerial (s : State) : State :=
  match checkPage (pageBChecks s.rb) s with
  | (s', true) => { s' with sn := reassemble s'.latch s'.rb }.finish .none
  | (s', false) => s'.finish .checksumMismatch

/-- Page B of RDSN (42_protocol.md R177). -/
def serialPageB (s : State) : State :=
  match xfer cmdPageB 6 true s with
  | .pending s' => s'
  | .timeout s' => s'.finish .timeout
  | .ok s' => concludeSerial s'

/-- After page A arrived: its checksums, then the latches and page B (42_protocol.md R177). -/
def afterPageA (s : State) : State :=
  match checkPage (pageAChecks s.rb) s with
  | (s', true) => serialPageB s'.latchPageA
  | (s', false) => s'.finish .checksumMismatch

/-- Page A of RDSN (42_protocol.md R177). -/
def serialPageA (s : State) : State :=
  match xfer cmdPageA 8 true s with
  | .pending s' => s'
  | .timeout s' => s'.finish .timeout
  | .ok s' => afterPageA s'

/-- RDSN from where it stands: page A, or page B if page A is behind it (42_protocol.md R177). -/
def readSerial (s : State) : State :=
  match s.page with
  | .a => serialPageA s
  | .b => serialPageB s

/-- RDSN (42_protocol.md R177). -/
def execRdsn (s : State) : Host.Outcome State Fault Refusal := .next (readSerial (s.opening State.clearSerial))

end Sys2Proof.Machine
end

