-- ==== Sys2Proof/Machine/Dispatch.lean ====
section
/-! DEFINITION. One arm per operation (30_encoding.md R94). -/

namespace Sys2Proof.Machine

/-- The operation `i`, begun or gone on with at `s`, as far as the environment's answers at hand allow (log 2). -/
def exec (i : Instr) (s : State) : Host.Outcome State Fault Refusal :=
  match i with
  | .xfer cmd rlen rel => Sys2Proof.Machine.execXfer cmd rlen rel s
  | .xwr cmd => Sys2Proof.Machine.execXwr cmd s
  | .crci => Sys2Proof.Machine.execCrci s
  | .crcb imm8 => Sys2Proof.Machine.execCrcb imm8 s
  | .crcv imm8 => Sys2Proof.Machine.execCrcv imm8 s
  | .crcr off n => Sys2Proof.Machine.execCrcr off n s
  | .dect src => Sys2Proof.Machine.execDect src s
  | .dech src => Sys2Proof.Machine.execDech src s
  | .meast => Sys2Proof.Machine.execMeast s
  | .meash => Sys2Proof.Machine.execMeash s
  | .srst => Sys2Proof.Machine.execSrst s
  | .rdur rel => Sys2Proof.Machine.execRdur rel s
  | .setres code => Sys2Proof.Machine.execSetres code s
  | .rdsn => Sys2Proof.Machine.execRdsn s

end Sys2Proof.Machine
end

