-- ==== Sys2Proof/Machine/Window.lean ====
section
/-! DEFINITION. The host's register window (10_state.md R21 to R32, R39; 20_memory.md R60 to R63). -/

namespace Sys2Proof.Machine

/-- A whole 32-bit word at a multiple of 4 inside 0x00..0x3C (20_memory.md R62). -/
def accessOk (off n : Nat) : Bool := decide (n = 4) && decide (off % 4 = 0) && decide (off ≤ 0x3C)

/-- Four bytes as a host word, the first in bits [7:0] (10_state.md R26, R27; 20_memory.md R61(e)). -/
def packBytes (b0 b1 b2 b3 : Byte) : Word := put b0 0 ||| put b1 8 ||| put b2 16 ||| put b3 24

/-- CFG: ADDR in [6:0], TMO in [15:8], W in [23:16] (10_state.md R31). -/
def cfgWord (p : Params) : Word :=
  put Config.addr 0 ||| put (BitVec.ofNat 8 Config.tmo) 8 ||| put (BitVec.ofNat 8 p.w) 16

/-- The register `x[i]` of the window while `BUSY = 0` (10_state.md R21 to R32); x[12] to x[15] read 0. -/
def State.register (s : State) (i : Nat) : Word :=
  match i with
  | 0 => s.op
  | 1 => s.status
  | 2 => s.raw.setWidth 32
  | 3 => s.val.signExtend 32
  | 4 => packBytes s.rb[0] s.rb[1] s.rb[2] s.rb[3]
  | 5 => packBytes s.rb[4] s.rb[5] s.rb[6] s.rb[7]
  | 6 => packBytes s.sn[0] s.sn[1] s.sn[2] s.sn[3]
  | 7 => packBytes s.sn[4] s.sn[5] s.sn[6] s.sn[7]
  | 8 => put s.urd 0 ||| put s.urw 8
  | 9 => s.acc.setWidth 32
  | 10 => BitVec.ofNat 32 s.t0
  | 11 => cfgWord s.params
  | _ => 0#32

/-- STATUS while an operation runs: BUSY = 1, DONE = 0, the reserved bits 0, the other fields those of the draw `v`
(10_state.md R39, R32). DESIGN CHOICE (log 6): R39 leaves the field ERR unspecified and R32 never produces 5 to 7; the draw may show
any of its eight values. -/
def busyStatus (v : Word) : Word :=
  packStatus true false (v.getLsbD 2) (v.getLsbD 3) (v.extractLsb' 4 3) (v.extractLsb' 8 4)

/-- The register `x[i]` while `BUSY = 1`: OP and CFG as they are, STATUS by `busyStatus`, the reserved offsets hardwired 0,
every other register the draw `v` (10_state.md R39, R32, R35; log 6). DESIGN CHOICE (log 6): the reserved bits RAW[31:16],
UR[31:16] and CRC[31:8], which R32 and 93 U21 say read 0 and R39 and 93 U18 leave unspecified while BUSY = 1, are the draw's. -/
def State.busyRegister (s : State) (v : Word) (i : Nat) : Word :=
  match i with
  | 0 => s.op
  | 1 => busyStatus v
  | 11 => cfgWord s.params
  | 12 => 0#32
  | 13 => 0#32
  | 14 => 0#32
  | 15 => 0#32
  | _ => v

/-- What a host read at offset `off` returns (10_state.md R39). -/
def State.readValue (s : State) (off : Nat) : Word :=
  if s.busy then s.busyRegister (Config.busyRead s.draws) (off / 4) else s.register (off / 4)

/-- A host read: it changes nothing of the block; the model records what it returned, and counts the draw if one may have been
used (20_memory.md R63; log 6). -/
def State.hostRead (s : State) (off : Nat) : State :=
  { s with
    hostReads := s.hostReads ++ [(off, s.readValue off)]
    draws := if s.busy then s.draws + 1 else s.draws }

/-- The host write starts an operation: it goes to OP and no operation runs (10_state.md R22, 20_memory.md R63). -/
def State.startsOperation (s : State) (off : Nat) : Bool := decide (off = 0) && !s.busy

end Sys2Proof.Machine
end

