-- ==== Sys2Proof/Machine/Sequencer.lean ====
section
/-! DEFINITION. What one input from outside makes the block do: an operation word written, an operation gone on with, a register
access, reset (10_state.md R22, 20_memory.md R63, R69, 70_reset_and_hazards.md R260). -/

namespace Sys2Proof.Machine

/-- A word written to OP while idle: a legal word is accepted and its operation runs, an illegal one raises IllegalOp
(10_state.md R22, 60_exceptions.md R224, R227). -/
def issue (w : Word) (s : State) : Host.Outcome State Fault Refusal :=
  match decode w with
  | .ok i => exec i (s.accept w (firstPhase i))
  | .error _ => .next (s.rejectWord w)

/-- The running operation goes on: it is decoded from the word latched in OP (20_memory.md R69). A running operation's word is
legal in every state a run reaches; elsewhere this ends it with IllegalOp (log 14). -/
def resume (s : State) : Host.Outcome State Fault Refusal :=
  match decode s.op with
  | .ok i => exec i s
  | .error _ => .next (s.finish .illegalOp)

/-- A running operation goes on; an idle block holds its registers (60_exceptions.md R235). -/
def proceed (s : State) : Host.Outcome State Fault Refusal := if s.busy then resume s else .next s

/-- Further answers of the environment, behind those not yet asked for. -/
def State.withAnswers (s : State) (rx : List (Option Byte)) (clock : List Nat) : State :=
  { s with rx := s.rx ++ rx, clock := s.clock ++ clock }

/-- A host write of `v` at `off`, an access of the interface: to OP while idle it starts an operation; every other write is
ignored (10_state.md R21, R22). -/
def hostWrite (off : Nat) (v : Word) (s : State) : Host.Outcome State Fault Refusal :=
  if s.startsOperation off then issue v s else .next s

/-- The block is reset `k` bus primitive calls into what `run` does at `s`, an operation begun or gone on with; where `run` makes no call
the reset finds the block at rest or waiting (70_reset_and_hazards.md R260; log 13). -/
def thenReset (k : Nat) (run : State → Host.Outcome State Fault Refusal) (s : State) : Host.Outcome State Fault Refusal :=
  match run s with
  | .next s' => .next (s.cutShort k s')
  | .fault f => .fault f
  | .refused r => .refused r

/-- One input, taken off the script already (00_scope.md R6; log 1). -/
def perform (m : Input) (s : State) : Host.Outcome State Fault Refusal :=
  match m with
  | .write off n v => if accessOk off n then hostWrite off v s else .refused (.badAccess off n)
  | .read off n => if accessOk off n then .next (s.hostRead off) else .refused (.badAccess off n)
  | .answers rx clock => proceed (s.withAnswers rx clock)
  | .reset => .next s.hardReset
  | .writeThenReset w k => thenReset k (hostWrite 0 w) s
  | .answersThenReset rx clock k => thenReset k proceed (s.withAnswers rx clock)

/-- The script has ended while an operation runs: the environment still answers, with free values, where no answer is at hand
(93 U8, U9; log 5). -/
def State.withFreeAnswers (s : State) : State :=
  { s with
    rx := if s.rx.isEmpty then [Config.freeRx s.draws] else s.rx
    clock := if s.clock.isEmpty then [Config.freeClock s.draws] else s.clock
    draws := s.draws + 1 }

/-- The word `w` written to OP of an idle block is the next input. -/
def State.withWordNext (s : State) (w : Word) : State :=
  { s with busy := false, ph := .idle, script := .write 0 4 w :: s.script }

end Sys2Proof.Machine
end

