-- ==== Sys2Proof/Machine/Step.lean ====
section
/-! DEFINITION. One step of the machine (00_scope.md R6, 20_memory.md R66; log 1, 2, 5, 12). -/

namespace Sys2Proof.Machine

/-- One step: the next input of the script; once the script has ended, a running operation goes on with free answers, and an idle
block waits for its first or next word (70_reset_and_hazards.md R260). -/
def step (s : State) : Host.Outcome State Fault Refusal :=
  match s.script with
  | m :: rest => perform m { s with script := rest }
  | [] => if s.busy then resume s.withFreeAnswers else .next s

/-- The operation word `w` stands where the next step takes its operation from: the host's next move is to write it to OP, and no
operation runs, so that the write is not ignored (10_state.md R22; log 1). -/
def State.withFetchWord (s : State) (nbits w : Nat) : State :=
  s.withWordNext (BitVec.ofNat 32 (w % 2 ^ nbits))

end Sys2Proof.Machine
end

