-- ==== Sys2Proof/Safety.lean ====
section
/-! DEFINITION. The terms claims are made in: legal words as the opcode map has them, the environment's answers to one read
transfer, the assumptions on the environment as named premises, the invariants. -/

namespace Sys2Proof.Machine

/-! ## Legal words -/

/-- `two = 0` implies `cmdB = 0` (30_encoding.md R93): bit 22 and bits [7:0]. -/
def CmdLegal (w : Word) : Prop := w.getLsbD 22 = false → w &&& 0x000000FF#32 = 0#32

/-- `b = 1` implies `imm16 = 0` (30_encoding.md R93): bit 23 and bits [15:0]. -/
def SourceLegal (w : Word) : Prop := w.getLsbD 23 = true → w &&& 0x0000FFFF#32 = 0#32

/-- The word matches a row of the opcode map, mask and match, and the row's constraints on the word alone hold
(30_encoding.md R94, R93). -/
def LegalWord (w : Word) : Prop :=
  (w &&& 0xFF300000#32 = 0x01000000#32 ∧ 1 ≤ (w.toNat / 65536) % 16 ∧ (w.toNat / 65536) % 16 ≤ 8 ∧ CmdLegal w) ∨
  (w &&& 0xFFBF0000#32 = 0x02000000#32 ∧ CmdLegal w) ∨
  w = 0x08000000#32 ∨
  w &&& 0xFFFFFF00#32 = 0x09000000#32 ∨
  w &&& 0xFFFFFF00#32 = 0x0A000000#32 ∨
  (w &&& 0xFFFFF0F0#32 = 0x0B000000#32 ∧ (w.toNat / 256) % 16 + w.toNat % 16 ≤ 7) ∨
  (w &&& 0xFF7F0000#32 = 0x10000000#32 ∧ SourceLegal w) ∨
  (w &&& 0xFF7F0000#32 = 0x11000000#32 ∧ SourceLegal w) ∨
  w = 0x20000000#32 ∨
  w = 0x21000000#32 ∨
  w = 0x22000000#32 ∨
  w &&& 0xFF7FFFFF#32 = 0x23000000#32 ∨
  w &&& 0xFFFFFFFC#32 = 0x24000000#32 ∨
  w = 0x25000000#32

/-! ## The environment's answers to one read transfer, from the sample of T0 on -/

/-- The answers `rx` (to AV and RD) and `clk` (to NOW) let a read of `n` more bytes succeed with the bytes `bs`, in the events `evs`: every
sample taken while bytes were missing is short of 100 counts (41_transfer.md R144 to R146). -/
inductive Delivers (w t0 : Nat) : Nat → List (Option Byte) → List Nat → List Byte → List Event → Prop where
  | complete : Delivers w t0 0 [] [] [] []
  | byte {n rx clk bs evs} (b : Byte) (h : Delivers w t0 n rx clk bs evs) :
      Delivers w t0 (n + 1) (some b :: rx) clk (b :: bs) (.av true :: .rd b :: evs)
  | wait {n rx clk bs evs} (t : Nat) (early : elapsed w t0 (t % 2 ^ w) < 100)
      (h : Delivers w t0 (n + 1) rx clk bs evs) :
      Delivers w t0 (n + 1) (none :: rx) (t :: clk) bs (.av false :: .now (t % 2 ^ w) :: evs)

/-- The answers let a read of `n` more bytes time out after the bytes `bs`, in the events `evs`: the last sample, taken with bytes
missing, is the first that shows 100 counts or more (41_transfer.md R145). -/
inductive TimesOut (w t0 : Nat) : Nat → List (Option Byte) → List Nat → List Byte → List Event → Prop where
  | late {n} (t : Nat) (reached : 100 ≤ elapsed w t0 (t % 2 ^ w)) :
      TimesOut w t0 (n + 1) [none] [t] [] [.av false, .now (t % 2 ^ w)]
  | byte {n rx clk bs evs} (b : Byte) (h : TimesOut w t0 n rx clk bs evs) :
      TimesOut w t0 (n + 1) (some b :: rx) clk (b :: bs) (.av true :: .rd b :: evs)
  | wait {n rx clk bs evs} (t : Nat) (early : elapsed w t0 (t % 2 ^ w) < 100)
      (h : TimesOut w t0 (n + 1) rx clk bs evs) :
      TimesOut w t0 (n + 1) (none :: rx) (t :: clk) bs (.av false :: .now (t % 2 ^ w) :: evs)

/-- The bytes in arrival order, then 0x00 up to eight (41_transfer.md R146). -/
def padded (bs : List Byte) : Bytes8 := Vector.ofFn fun i => bs.getD i.val 0#8

/-- The answers `rx` and `clk` stand at the head of those `s` holds, after the start sample `t`; `rxR` and `clkR` are left. -/
def Answered (s : State) (t : Nat) (rx : List (Option Byte)) (clk : List Nat) (rxR : List (Option Byte)) (clkR : List Nat) : Prop :=
  s.rx = rx ++ rxR ∧ s.clock = t :: (clk ++ clkR)

/-- The events a read transfer makes before it polls: write phase of `cmd`, repeated start, read request, start sample
(41_transfer.md R141 to R143). -/
def requestEvents (cmd : List Byte) (n : Nat) (rel : Bool) (t0 : Nat) : List Event :=
  [.bw 0x40#7] ++ cmd.map Event.wb ++ [.ew false, .br 0x40#7 n rel, .now t0]

/-- The state `s` after a read of `cmd` that succeeded (41_transfer.md R140, R146): the bytes `bs` in RB, RLEN, HELD, T0, the events,
and the answers left; nothing else. -/
def afterRead (s : State) (cmd : List Byte) (n : Nat) (rel : Bool) (t : Nat) (bs : List Byte) (evs : List Event)
    (rxR : List (Option Byte)) (clkR : List Nat) : State :=
  { s with
    rb := padded bs
    rlen := n
    held := !rel
    t0 := t % 2 ^ s.params.w
    cnt := n
    events := s.events ++ requestEvents cmd n rel (t % 2 ^ s.params.w) ++ evs
    rx := rxR
    clock := clkR }

/-- The state `s` after a read of `cmd` that timed out with the bytes `bs` taken (41_transfer.md R145): RB all zero, `RLEN = 0`,
`HELD = 1`, T0, the events, and the answers left; nothing else. -/
def afterTimeout (s : State) (cmd : List Byte) (n : Nat) (rel : Bool) (t : Nat) (bs : List Byte) (evs : List Event)
    (rxR : List (Option Byte)) (clkR : List Nat) : State :=
  { s with
    rb := padded []
    rlen := 0
    held := true
    t0 := t % 2 ^ s.params.w
    cnt := bs.length
    events := s.events ++ requestEvents cmd n rel (t % 2 ^ s.params.w) ++ evs
    rx := rxR
    clock := clkR }

/-- The operation has completed with the error kind `e` (60_exceptions.md R227). -/
def ended (s : State) (e : ErrKind) : State := { s with err := e, done := true, busy := false, ph := .idle }

/-- Every piece of the block's state has its reset value (10_state.md R38). -/
structure AtReset (s : State) : Prop where
  op : s.op = 0x00000000#32
  busy : s.busy = false
  done : s.done = false
  crcok : s.crcok = false
  held : s.held = false
  err : s.err = .none
  rlen : s.rlen = 0
  rb : ∀ (i : Nat) (h : i < 8), s.rb[i] = 0x00#8
  raw : s.raw = 0x0000#16
  val : s.val = 0x0000#16
  sn : ∀ (i : Nat) (h : i < 8), s.sn[i] = 0x00#8
  urd : s.urd = 0x00#8
  urw : s.urw = 0x00#8
  acc : s.acc = 0x00#8
  t0 : s.t0 = 0
  ph : s.ph = .idle

/-- `t` is `s` reset after the events `made`, with the script `rest` to come (70_reset_and_hazards.md R260): the block is at its reset
values, CFG is unchanged, the history has grown by `made` and nothing else. Of the answers `rx` and `clk` those `made` asked for
are gone, and the model's records of reads and draws stay (log 13). -/
structure ResetAfter (s t : State) (made : List Event) (rx : List (Option Byte)) (clk : List Nat) (rest : List Input) : Prop where
  values : AtReset t
  params : t.params = s.params
  events : t.events = s.events ++ made
  rx : t.rx = rx.drop (made.countP Event.isAv)
  clock : t.clock = clk.drop (made.countP Event.isNow)
  script : t.script = rest
  hostReads : t.hostReads = s.hostReads
  draws : t.draws = s.draws

/-- The word encodes nothing (30_encoding.md R95). -/
def Rejected (w : Word) : Prop := ∃ why, decode w = .error why

/-- The hundredths of a degree of `raw` as 43_decoder.md R203 writes them. -/
def hundredthsT (raw : Nat) : Int := (((17572 * raw + 32768) / 65536 : Nat) : Int) - 4685

/-- The hundredths of a percent of `raw` as 43_decoder.md R203 writes them. -/
def hundredthsH (raw : Nat) : Int := (((12500 * raw + 32768) / 65536 : Nat) : Int) - 600

/-! ## Assumptions on the environment, as premises -/

/-- The cadence of 92 D20: consecutive samples differ by 0 or 1 count. -/
def PolledEveryCount (w : Nat) : List Nat → Prop
  | [] => True
  | [_] => True
  | a :: b :: rest => elapsed w (a % 2 ^ w) (b % 2 ^ w) ≤ 1 ∧ PolledEveryCount w (b :: rest)

/-- The clean entry of 70_reset_and_hazards.md R262: the block is reset and no byte waits at the transport. -/
def CleanEntry (s : State) : Prop := s = { State.resetOf s.params with clock := s.clock, script := s.script }

/-! ## Invariants -/

/-- The number of bytes the read in progress of an operation asks for (41_transfer.md R148, 42_protocol.md R172 to R177). -/
def readLength (page : Page) : Instr → Option Nat
  | .xfer _ rlen _ => some rlen
  | .xwr _ => none
  | .crci => none
  | .crcb _ => none
  | .crcv _ => none
  | .crcr _ _ => none
  | .dect _ => none
  | .dech _ => none
  | .meast => some 3
  | .meash => some 3
  | .srst => none
  | .rdur _ => some 1
  | .setres _ => some 1
  | .rdsn =>
    match page with
    | .a => some 8
    | .b => some 6

/-- What holds of the block's registers between two steps (10_state.md R23, R26, R30, R33, R36). -/
structure Inv (s : State) : Prop where
  /-- W >= 8, and it fits its field of CFG (00_scope.md R5, 10_state.md R31) -/
  width : 8 ≤ s.params.w ∧ s.params.w ≤ 255
  /-- "the host sees only BUSY = (PH != IDLE)" (R33) -/
  busy_iff : s.busy = true ↔ s.ph ≠ .idle
  /-- "BUSY and DONE are never both 1" (R23) -/
  not_busy_done : ¬(s.busy = true ∧ s.done = true)
  /-- between steps an operation waits only for answers: T0's sample, or the poll loop's (log 2) -/
  waits : s.ph = .idle ∨ s.ph = .req ∨ s.ph = .poll
  /-- RLEN is 0..8 (R23) -/
  rlen_le : s.rlen ≤ 8
  /-- "Bytes at index RLEN and above are 0" (R26) -/
  tail_zero : s.ph = .idle → ∀ (i : Nat) (h : i < 8), s.rlen ≤ i → s.rb[i] = 0#8
  /-- a running read has cleared RLEN, and the bytes it has not taken are 0 (41_transfer.md R141) -/
  running_tail : s.ph ≠ .idle → s.rlen = 0 ∧ ∀ (i : Nat) (h : i < 8), s.cnt ≤ i → s.rb[i] = 0#8
  /-- no byte is taken before T0 is sampled (41_transfer.md R143) -/
  req_none : s.ph = .req → s.cnt = 0
  /-- a running operation is a legal one that reads the bus, with bytes still missing (20_memory.md R69, 41_transfer.md R144) -/
  running : s.ph ≠ .idle → ∃ i n, decode s.op = .ok i ∧ readLength s.page i = some n ∧ s.cnt < n ∧ n ≤ 8
  /-- T0 is a uW (R30) -/
  t0_lt : s.t0 < 2 ^ s.params.w

/-- The bus address an event names, if it names one. -/
def Event.address : Event → Option BusAddr
  | .bw a => some a
  | .br a _ _ => some a
  | .wb _ => none
  | .ew _ => none
  | .av _ => none
  | .rd _ => none
  | .now _ => none

/-- Every bus primitive made so far names the sensor's address (20_memory.md R60(d)). -/
def SensorOnly (s : State) : Prop := ∀ e ∈ s.events, ∀ a, e.address = some a → a = 0x40#7

/-- `RD()` is called only directly after an `AV()` that answered true (20_memory.md R66(3)). -/
def ReadsFollowAvailable (s : State) : Prop :=
  ∀ before after b, s.events = before ++ Event.rd b :: after → ∃ before', before = before' ++ [Event.av true]

end Sys2Proof.Machine
end

