-- ==== Sys2Proof/Certificates/Slice0/Obligations.lean ====
section
/-! DEFINITION. What the provers are asked to prove: the numbered rules of spec/ as statements about the model. -/

open Sys2Proof Sys2Proof.Machine

/-! ## Encoding (30_encoding.md) -/

/-- Some of the words of 30_encoding.md R96 and 95 section 2.5 decode to the operations they stand for. -/
def Obligations.SpecWordsDecode : Prop :=
  decode 0x0183E300#32 = .ok (.xfer (.one 0xE3#8) 3 true) ∧
  decode 0x01C8FA0F#32 = .ok (.xfer (.two 0xFA#8 0x0F#8) 8 true) ∧
  decode 0x0101E700#32 = .ok (.xfer (.one 0xE7#8) 1 false) ∧
  decode 0x0240E685#32 = .ok (.xwr (.two 0xE6#8 0x85#8)) ∧
  decode 0x0A0000D1#32 = .ok (.crcv 0xD1#8) ∧
  decode 0x0B000302#32 = .ok (.crcr 3 2) ∧
  decode 0x1000648C#32 = .ok (.dect (.imm 0x648C#16)) ∧
  decode 0x11800000#32 = .ok (.dech .buffer) ∧
  decode 0x20000000#32 = .ok .meast ∧
  decode 0x23800000#32 = .ok (.rdur true) ∧
  decode 0x24000002#32 = .ok (.setres 2#2) ∧
  decode 0x00000000#32 = .error .opcode ∧
  decode 0x0193E300#32 = .error .mustBeZero ∧
  decode 0x0109E300#32 = .error .operands

/-- Decoding the word of a well-formed instruction gives it back, every operand at every value (30_encoding.md R91, R92). -/
def Obligations.DecodeOfEncode : Prop :=
  ∀ i : Instr, i.wf = true → decode (encode i) = .ok i

/-- Every word that decodes is the one word of a well-formed instruction: no bit of it is dropped (30_encoding.md R91 to R95). -/
def Obligations.EncodeOfDecode : Prop :=
  ∀ (w : Word) (i : Instr), decode w = .ok i → i.wf = true ∧ encode i = w

/-- The decoder accepts exactly the words that match a row of the opcode map under the row's constraints (30_encoding.md R94, R93). -/
def Obligations.DecoderAcceptsTheOpcodeMap : Prop :=
  ∀ w : Word, (∃ i, decode w = .ok i) ↔ LegalWord w

/-- 30_encoding.md R95: an illegal word written to OP while idle ends in IllegalOp at once, and changes OP, DONE and ERR only. -/
def Obligations.IllegalWordChangesOnlyOpDoneErr : Prop :=
  ∀ (s : State) (w : Word) (rest : List Input),
    s.busy = false → s.script = .write 0 4 w :: rest → ¬LegalWord w →
    step s = .next { s with script := rest, op := w, done := true, err := .illegalOp }

/-! ## Steps and the host window (10_state.md, 20_memory.md, 60_exceptions.md) -/

/-- A legal word written to OP while idle is accepted, and the step runs the operation it decodes to, from the accepted state:
`OP <- word`, BUSY 1, DONE 0, ERR 0, PH out of IDLE, everything else as it was (10_state.md R22, 60_exceptions.md R227). That the write stands as the next input is the model's form
(log 1). -/
def Obligations.StepRunsTheDecodedOperation : Prop :=
  ∀ (s : State) (w : Word) (rest : List Input) (i : Instr),
    s.busy = false → s.script = .write 0 4 w :: rest → decode w = .ok i →
    ∃ ph, (ph = .write ∨ ph = .post) ∧
      step s = exec i { s with script := rest, op := w, busy := true, done := false, err := .none, ph := ph }

/-- `withFetchWord` places the word so that the very next step runs its operation, from the state it was given, idle (the model's
form, log 1). -/
def Obligations.FetchWordIsTheNextOperation : Prop :=
  ∀ (s : State) (w : Nat) (i : Instr), decodeTableWord 32 w = some i →
    ∃ ph, (ph = .write ∨ ph = .post) ∧
      step (s.withFetchWord 32 w) =
        exec i { s with op := BitVec.ofNat 32 w, busy := true, done := false, err := .none, ph := ph }

/-- A running operation goes on when answers come: the step is the latched word's operation on the state with the answers behind
those not yet asked for (20_memory.md R69, R70; that answers come as inputs is the model's form, log 2, 3). -/
def Obligations.AnswersGoToTheRunningOperation : Prop :=
  ∀ (s : State) (rx : List (Option Byte)) (clk : List Nat) (rest : List Input) (i : Instr),
    s.script = .answers rx clk :: rest →
    (s.busy = true → decode s.op = .ok i →
      step s = exec i { s with script := rest, rx := s.rx ++ rx, clock := s.clock ++ clk }) ∧
    (s.busy = false → step s = .next { s with script := rest, rx := s.rx ++ rx, clock := s.clock ++ clk })

/-- 70_reset_and_hazards.md R264: a word written while `BUSY = 1` is dropped without trace. -/
def Obligations.WordWrittenWhileBusyIsDropped : Prop :=
  ∀ (s : State) (w : Word) (rest : List Input),
    s.busy = true → s.script = .write 0 4 w :: rest → step s = .next { s with script := rest }

/-- A host write to any register but OP is ignored (10_state.md R21, R32). -/
def Obligations.OtherRegistersIgnoreWrites : Prop :=
  ∀ (s : State) (off : Nat) (w : Word) (rest : List Input),
    s.script = .write off 4 w :: rest → off % 4 = 0 → 0 < off → off < 64 → step s = .next { s with script := rest }

/-- Host accesses that are not aligned words inside the window are refused by name (20_memory.md R62, 93 U19; log 11). -/
def Obligations.AccessOutsideTheInterfaceIsRefused : Prop :=
  ∀ (s : State) (off n : Nat) (w : Word) (rest : List Input),
    (n ≠ 4 ∨ off % 4 ≠ 0 ∨ 64 ≤ off) →
    (s.script = .write off n w :: rest → step s = .refused (.badAccess off n)) ∧
    (s.script = .read off n :: rest → step s = .refused (.badAccess off n))

/-- A host read while `BUSY = 0` changes nothing of the block and returns the register of the map (20_memory.md R63, 10_state.md
R21, R22, R24, R25, R28 to R32): the fields stand in their bits, the reserved bits and offsets read 0.
The record of reads is the model's own (log 6). -/
def Obligations.IdleReadReturnsTheRegister : Prop :=
  ∀ (s : State) (off : Nat) (rest : List Input),
    s.busy = false → s.script = .read off 4 :: rest → off % 4 = 0 → off < 64 →
    ∃ v : Word, step s = .next { s with script := rest, hostReads := s.hostReads ++ [(off, v)] } ∧
      (off = 0x00 → v = s.op) ∧
      (off = 0x08 → v.toNat = s.raw.toNat) ∧
      (off = 0x0C → v.toInt = s.val.toInt) ∧
      (off = 0x20 → v.toNat = s.urw.toNat * 256 + s.urd.toNat) ∧
      (off = 0x24 → v.toNat = s.acc.toNat) ∧
      (off = 0x28 → v.toNat = s.t0 % 2 ^ 32) ∧
      (off = 0x2C → v.toNat = 0x40 + 100 * 256 + (s.params.w % 256) * 65536) ∧
      (0x30 ≤ off → v = 0#32)

/-- The STATUS register while `BUSY = 0` (10_state.md R23, 30_encoding.md R100): BUSY[0] DONE[1] CRCOK[2] HELD[3] ERR[6:4] RLEN[11:8].
The record of reads is the model's own (log 6). -/
def Obligations.StatusHoldsItsFields : Prop :=
  ∀ (s : State) (rest : List Input),
    s.busy = false → s.script = .read 0x04 4 :: rest →
    ∃ v : Word, step s = .next { s with script := rest, hostReads := s.hostReads ++ [(0x04, v)] } ∧
      v.toNat = 2 * s.done.toNat + 4 * s.crcok.toNat + 8 * s.held.toNat +
        16 * (match s.err with
          | .none => 0
          | .timeout => 1
          | .checksumMismatch => 2
          | .deviceAbsent => 3
          | .illegalOp => 4) +
        256 * (s.rlen % 16)

/-- RB and SN as the host reads them while `BUSY = 0`: byte `i` in bits `[8*(i mod 4)+7 : 8*(i mod 4)]` of word `i div 4`
(10_state.md R26, R27, 20_memory.md R61(e)). The record of reads is the model's own (log 6). -/
def Obligations.BuffersReadLittleEndianByIndex : Prop :=
  ∀ (s : State) (off : Nat) (rest : List Input),
    s.busy = false → s.script = .read off 4 :: rest → off % 4 = 0 → 0x10 ≤ off → off < 0x20 →
    ∃ v : Word, step s = .next { s with script := rest, hostReads := s.hostReads ++ [(off, v)] } ∧
      ∀ (i : Nat) (h : i < 8),
        (off = 0x10 + 4 * (i / 4) → v.extractLsb' (8 * (i % 4)) 8 = s.rb[i]) ∧
        (off = 0x18 + 4 * (i / 4) → v.extractLsb' (8 * (i % 4)) 8 = s.sn[i])

/-- A host read while `BUSY = 1`: STATUS shows BUSY = 1 and DONE = 0, OP and CFG their values; every other register any value
(10_state.md R39). Only the model's own record of reads and its count of draws change (log 6). -/
def Obligations.BusyReadShowsBusyOpAndCfg : Prop :=
  ∀ (s : State) (off : Nat) (rest : List Input),
    s.busy = true → s.script = .read off 4 :: rest → off % 4 = 0 → off < 64 →
    ∃ v : Word,
      step s = .next { s with script := rest, hostReads := s.hostReads ++ [(off, v)], draws := s.draws + 1 } ∧
      (off = 0x00 → v = s.op) ∧
      (off = 0x04 → v.getLsbD 0 = true ∧ v.getLsbD 1 = false) ∧
      (off = 0x2C → v.toNat = 0x40 + 100 * 256 + (s.params.w % 256) * 65536)

/-- An idle block holds everything it has: with no input from outside nothing changes (60_exceptions.md R235,
70_reset_and_hazards.md R260; log 12). -/
def Obligations.IdleBlockHoldsItsState : Prop :=
  ∀ s : State, s.busy = false → s.script = [] → step s = .next s

/-- A running operation is never stuck for want of inputs in the script: with free answers its history grows (93 U8, U9; the
free answers are the model's form, log 5). -/
def Obligations.FreeAnswersMakeProgress : Prop :=
  ∀ s : State, Inv s → s.busy = true → s.script = [] →
    ∃ t, step s = .next t ∧ s.events.length < t.events.length

/-- Completion and the time before it (60_exceptions.md R227): an operation that has ended shows DONE = 1 and PH = IDLE; one that
has not keeps DONE, ERR and BUSY as acceptance left them; OP stays in either case. That an operation may still be running when a step ends,
and then stands in REQ or POLL, is the model's choice (log 2). -/
def Obligations.CompletionRaisesDoneAndReturnsToIdle : Prop :=
  ∀ (i : Instr) (s : State), s.busy = true →
    ∃ t, exec i s = .next t ∧ t.op = s.op ∧
      (t.busy = false → t.done = true ∧ t.ph = .idle) ∧
      (t.busy = true → t.done = s.done ∧ t.err = s.err ∧ (t.ph = .req ∨ t.ph = .poll))

/-! ## Reset (10_state.md R38, 70_reset_and_hazards.md R260) -/

/-- 10_state.md R38: the machine after reset. -/
def Obligations.ResetStateHasTheSpecValues : Prop :=
  State.reset.op = 0x00000000#32 ∧ State.reset.busy = false ∧ State.reset.done = false ∧ State.reset.crcok = false ∧
  State.reset.held = false ∧ State.reset.err = .none ∧ State.reset.rlen = 0 ∧
  (∀ (i : Nat) (h : i < 8), State.reset.rb[i] = 0x00#8 ∧ State.reset.sn[i] = 0x00#8) ∧
  State.reset.raw = 0x0000#16 ∧ State.reset.val = 0x0000#16 ∧ State.reset.urd = 0x00#8 ∧ State.reset.urw = 0x00#8 ∧
  State.reset.acc = 0x00#8 ∧ State.reset.t0 = 0 ∧ State.reset.ph = .idle ∧ State.reset.register 11 = 0x00206440#32

/-- 70_reset_and_hazards.md R260: reset in any state, an operation running or not, puts every register to its reset value; it makes no
bus primitive; the transport's and the clock's answers, and CFG, are not the block's to reset. -/
def Obligations.ResetClearsTheBlockAndNothingElse : Prop :=
  ∀ (s : State) (rest : List Input), s.script = .reset :: rest →
    ∃ t, step s = .next t ∧
      t.op = 0x00000000#32 ∧ t.busy = false ∧ t.done = false ∧ t.crcok = false ∧ t.held = false ∧ t.err = .none ∧
      t.rlen = 0 ∧ (∀ (i : Nat) (h : i < 8), t.rb[i] = 0x00#8 ∧ t.sn[i] = 0x00#8) ∧ t.raw = 0x0000#16 ∧
      t.val = 0x0000#16 ∧ t.urd = 0x00#8 ∧ t.urw = 0x00#8 ∧ t.acc = 0x00#8 ∧ t.t0 = 0 ∧ t.ph = .idle ∧
      t.params = s.params ∧ t.register 11 = s.register 11 ∧ t.events = s.events ∧ t.rx = s.rx ∧ t.clock = s.clock ∧ t.script = rest

/-- Reset between two bus primitives of an operation that a word written to OP begins: the block is at its reset values, and the history
ends with the first `k` events the operation would have made; no stop condition is added. Where the word starts no operation, because
BUSY = 1 or the word is illegal, no event is made, and the block is at its reset values too (70_reset_and_hazards.md R260, 10_state.md
R38, R22; that the reset is an input naming `k`, and which answers are gone, is the model's form, log 13). -/
def Obligations.ResetAbandonsARunningOperation : Prop :=
  ∀ (s : State) (w : Word) (k : Nat) (rest : List Input), s.script = .writeThenReset w k :: rest →
    ∃ (t u : State) (evs : List Event),
      step { s with script := .write 0 4 w :: rest } = .next u ∧ u.events = s.events ++ evs ∧
      step s = .next t ∧ ResetAfter s t (evs.take k) s.rx s.clock rest ∧
      (s.busy = true ∨ Rejected w → evs = [])

/-- Reset between two bus primitives of an operation that goes on with further answers, so also inside the write-back of SETRES or the
request of RDSN's second page: the block is at its reset values, and the history ends with the first `k` events the operation would
have made of those answers; an idle block makes none (70_reset_and_hazards.md R260, 10_state.md R38; the form of the input is
log 13's). -/
def Obligations.ResetAbandonsAResumedOperation : Prop :=
  ∀ (s : State) (rx : List (Option Byte)) (clk : List Nat) (k : Nat) (rest : List Input),
    s.script = .answersThenReset rx clk k :: rest →
    ∃ (t u : State) (evs : List Event),
      step { s with script := .answers rx clk :: rest } = .next u ∧ u.events = s.events ++ evs ∧
      step s = .next t ∧ ResetAfter s t (evs.take k) (s.rx ++ rx) (s.clock ++ clk) rest ∧
      (s.busy = false → evs = [])

/-! ## Invariants -/

/-- The reset state meets the invariant. -/
def Obligations.ResetMeetsTheInvariant : Prop := Inv State.reset

/-- Every step keeps the invariant (10_state.md R23, R26, R30, R33, R36). That a running operation stands in REQ or POLL
between steps, and that W is at most 255, are the model's choices (log 2, 7). -/
def Obligations.EveryStepKeepsTheInvariant : Prop :=
  ∀ s t : State, Inv s → step s = .next t → Inv t

/-- Every bus primitive of every step names address 0x40 (20_memory.md R60(d), R65). -/
def Obligations.OnlyTheSensorIsAddressed : Prop :=
  ∀ s t : State, SensorOnly s → step s = .next t → SensorOnly t

/-- 20_memory.md R66(3): every step keeps that `RD()` is called only directly after an `AV()` that answered true. -/
def Obligations.ReadsFollowAnAvailableAnswer : Prop :=
  ∀ s t : State, ReadsFollowAvailable s → step s = .next t → ReadsFollowAvailable t

/-- The event history only grows, in order (20_memory.md R66(1), (5)), and no step changes the block's parameters, so CFG is constant
(10_state.md R31). -/
def Obligations.HistoryOnlyGrowsAndCfgIsConstant : Prop :=
  ∀ s t : State, step s = .next t → t.params = s.params ∧ ∃ evs, t.events = s.events ++ evs

/-! ## The CRC validator (40_crc.md) -/

/-- 40_crc.md R123, CRCI: `ACC <- 0` and completion; everything else unchanged, no event. -/
def Obligations.CrciClearsTheAccumulator : Prop :=
  decode 0x08000000#32 = .ok .crci ∧
  ∀ s : State, exec .crci s = .next (ended { s with acc := 0x00#8 } .none)

/-- 40_crc.md R124, CRCB: ACC absorbs the byte as one more byte of the document's checksum, continuing from the accumulator any sequence left;
nothing else changes. -/
def Obligations.CrcbAbsorbsOneByte : Prop :=
  (∀ d : Byte, decode (0x09000000#32 ||| d.setWidth 32) = .ok (.crcb d)) ∧
  ∀ (s : State) (d : Byte), ∃ a : Byte, a = crcByte8 s.acc d ∧
    exec (.crcb d) s = .next (ended { s with acc := a } .none) ∧
    ∀ data : List Byte, s.acc.toNat = crcWide data → a.toNat = crcWide (data ++ [d])

/-- 40_crc.md R125, CRCV: CRCOK says whether ACC equals the expected checksum; ACC stays; a mismatch is no error. -/
def Obligations.CrcvComparesTheAccumulator : Prop :=
  (∀ e : Byte, decode (0x0A000000#32 ||| e.setWidth 32) = .ok (.crcv e)) ∧
  ∀ (s : State) (e : Byte),
    (s.acc = e → exec (.crcv e) s = .next (ended { s with crcok := true } .none)) ∧
    (s.acc ≠ e → exec (.crcv e) s = .next (ended { s with crcok := false } .none))

/-- 40_crc.md R126, CRCR: the checksum of `RB[off .. off+n-1]` goes to ACC and its comparison with `RB[off+n]` to CRCOK; where that byte
was not received it ends in IllegalOp with ACC and CRCOK unchanged. -/
def Obligations.CrcrValidatesTheBuffer : Prop :=
  (∀ off n : Nat, off + n ≤ 7 → decode (BitVec.ofNat 32 (0x0B000000 + off * 256 + n)) = .ok (.crcr off n)) ∧
  (∀ off n : Nat, off < 16 → n < 16 → 7 < off + n → Rejected (BitVec.ofNat 32 (0x0B000000 + off * 256 + n))) ∧
  ∀ (s : State) (off n : Nat) (h : off + n ≤ 7),
    (s.rlen ≤ off + n → exec (.crcr off n) s = .next (ended s .illegalOp)) ∧
    (off + n < s.rlen → ∃ data : List Byte, data.length = n ∧ (∀ (i : Nat) (_ : i < n), data[i]? = some s.rb[off + i]) ∧
      ∃ a : Byte, a.toNat = crcWide data ∧
        exec (.crcr off n) s = .next (ended { s with acc := a, crcok := decide (a = s.rb[off + n]) } .none))

/-- 40_crc.md R122: the 8-bit register computes the document's checksum, for every sequence. -/
def Obligations.EightBitChecksumEqualsTheDocuments : Prop :=
  ∀ data : List Byte, (data.foldl crcByteWide 0) % 256 = (data.foldl crcByte8 0#8).toNat

/-- 40_crc.md R127: a sequence validates against its own checksum; a single flipped bit in any data byte makes validation fail; the
checksum of the fixture [0x64, 0x8C] is 0xD1. -/
def Obligations.ChecksumDetectsEverySingleBitFlip : Prop :=
  (∀ data : List Byte, validates data (crc data) = true) ∧
  (∀ (before after : List Byte) (d : Byte) (k : Nat), k < 8 →
    validates (before ++ (d ^^^ (1#8 <<< k)) :: after) (crc (before ++ d :: after)) = false) ∧
  crc [0x64#8, 0x8C#8] = 0xD1#8

/-! ## The transfer engine (41_transfer.md) -/

/-- 41_transfer.md R148, XFER: for answers that deliver the bytes it completes with them in RB; for answers that time out it ends in Timeout with
nothing of them; the words it takes, and those it does not. -/
def Obligations.XferReadsOrTimesOut : Prop :=
  (∀ (rel : Bool) (n : Nat) (a b : Byte), 1 ≤ n → n ≤ 8 →
    decode (BitVec.ofNat 32 (0x01000000 + rel.toNat * 0x800000 + n * 0x10000 + a.toNat * 0x100)) = .ok (.xfer (.one a) n rel) ∧
    decode (BitVec.ofNat 32 (0x01400000 + rel.toNat * 0x800000 + n * 0x10000 + a.toNat * 0x100 + b.toNat)) =
      .ok (.xfer (.two a b) n rel)) ∧
  (∀ w : Word, w.toNat / 0x1000000 = 0x01 →
    ((w.toNat / 0x10000) % 16 = 0 ∨ 8 < (w.toNat / 0x10000) % 16 ∨ (w.toNat / 0x100000) % 4 ≠ 0 ∨
      ((w.toNat / 0x400000) % 2 = 0 ∧ w.toNat % 256 ≠ 0)) → Rejected w) ∧
  ∀ (s : State) (cmd : Cmd) (n : Nat) (rel : Bool) (t : Nat) (rx rxR : List (Option Byte)) (clk clkR : List Nat) (bs : List Byte)
    (evs : List Event),
    s.inTransfer = false → n ≤ 8 → Answered s t rx clk rxR clkR →
    (Delivers s.params.w (t % 2 ^ s.params.w) n rx clk bs evs →
      exec (.xfer cmd n rel) s = .next (ended (afterRead s (cmdBytes cmd) n rel t bs evs rxR clkR) .none)) ∧
    (TimesOut s.params.w (t % 2 ^ s.params.w) n rx clk bs evs →
      exec (.xfer cmd n rel) s = .next (ended (afterTimeout s (cmdBytes cmd) n rel t bs evs rxR clkR) .timeout))

/-- The poll loop has two exits and no third (41_transfer.md R147, R151): an XFER that has ended took a head of its answers that either
delivers its bytes or times out. -/
def Obligations.TransferEndsOnlyBySuccessOrTimeout : Prop :=
  ∀ (s t : State) (cmd : Cmd) (n : Nat) (rel : Bool),
    s.inTransfer = false → s.busy = true → exec (.xfer cmd n rel) s = .next t → t.busy = false →
    ∃ (t0 : Nat) (rx rxR : List (Option Byte)) (clk clkR : List Nat) (bs : List Byte) (evs : List Event),
      Answered s t0 rx clk rxR clkR ∧
      ((t.err = .none ∧ Delivers s.params.w (t0 % 2 ^ s.params.w) n rx clk bs evs) ∨
        (t.err = .timeout ∧ TimesOut s.params.w (t0 % 2 ^ s.params.w) n rx clk bs evs))

/-- The hang of 41_transfer.md R151: while the clock stands still and no byte comes, the operation goes on polling, however often it
is answered, and BUSY stays 1 (that it then waits for further answers is the model's form, log 2). -/
def Obligations.StoppedClockHangsTheTransfer : Prop :=
  ∀ (s : State) (cmd : Cmd) (n : Nat) (rel : Bool) (c k : Nat) (bytes : List Byte),
    s.inTransfer = false → s.busy = true → bytes.length < n →
    s.rx = bytes.map some ++ List.replicate k none → s.clock = List.replicate (k + 1) c →
    ∃ t, exec (.xfer cmd n rel) s = .next t ∧ t.busy = true ∧ t.ph = .poll ∧ t.rx = [] ∧ t.clock = [] ∧
      t.cnt = bytes.length

/-- The termination of 41_transfer.md R151: where the clock counts up from `c0` (E1) and comes to 100 counts within one wrap (E3, E2), and the
transport goes on answering, the operation ends, by success or by timeout. -/
def Obligations.FairEnvironmentEndsTheTransfer : Prop :=
  ∀ (s : State) (cmd : Cmd) (n : Nat) (rel : Bool) (c0 : Nat) (counts : List Nat),
    s.inTransfer = false → s.busy = true →
    s.clock = (c0 :: counts).map (· % 2 ^ s.params.w) → (∀ c ∈ counts, c0 ≤ c ∧ c - c0 < 2 ^ s.params.w) →
    (∃ c ∈ counts, c0 + 100 ≤ c) → counts.length ≤ s.rx.countP (· == none) →
    ∃ t, exec (.xfer cmd n rel) s = .next t ∧ t.busy = false ∧ t.done = true ∧ (t.err = .none ∨ t.err = .timeout)

/-- 41_transfer.md R150: under E1, `elapsed` is the true number of counts as long as that number is below 2^W; and the spec's example
with W = 32. -/
def Obligations.ElapsedIsTheTrueCount : Prop :=
  (∀ w c0 c : Nat, c0 ≤ c → c - c0 < 2 ^ w → elapsed w (c0 % 2 ^ w) (c % 2 ^ w) = c - c0) ∧
  (∀ w t0 t : Nat, ((elapsed w t0 t : Nat) : Int) = ((t : Int) - (t0 : Int)) % (2 : Int) ^ w) ∧
  elapsed 32 0xFFFFFFC0 0x00000024 = 100

/-- 41_transfer.md R152(a), (b): an XFER that times out has sampled 100 counts or more last; if it is polled at least once a count, exactly
100. -/
def Obligations.TimeoutComesAtOneHundredCounts : Prop :=
  ∀ (s t : State) (cmd : Cmd) (n : Nat) (rel : Bool),
    8 ≤ s.params.w → s.inTransfer = false → s.busy = true → exec (.xfer cmd n rel) s = .next t → t.busy = false →
    t.err = .timeout →
    ∃ (evs : List Event) (last : Nat), t.events = s.events ++ evs ++ [.now last] ∧
      100 ≤ elapsed s.params.w t.t0 last ∧
      (PolledEveryCount s.params.w s.clock → elapsed s.params.w t.t0 last = 100)

/-- 41_transfer.md R149, XWR: one write phase with a full stop, `HELD <- 0`, no answer asked for, never an error; the words it takes, and
those it does not. -/
def Obligations.XwrWritesWithAFullStop : Prop :=
  (∀ a b : Byte,
    decode (BitVec.ofNat 32 (0x02000000 + a.toNat * 0x100)) = .ok (.xwr (.one a)) ∧
    decode (BitVec.ofNat 32 (0x02400000 + a.toNat * 0x100 + b.toNat)) = .ok (.xwr (.two a b))) ∧
  (∀ w : Word, w.toNat / 0x1000000 = 0x02 →
    ((w.toNat / 0x800000) % 2 = 1 ∨ (w.toNat / 0x10000) % 16 ≠ 0 ∨ (w.toNat / 0x100000) % 4 ≠ 0 ∨
      ((w.toNat / 0x400000) % 2 = 0 ∧ w.toNat % 256 ≠ 0)) → Rejected w) ∧
  ∀ (s : State) (a b : Byte),
    exec (.xwr (.one a)) s =
      .next (ended { s with held := false, events := s.events ++ [.bw 0x40#7, .wb a, .ew true] } .none) ∧
    exec (.xwr (.two a b)) s =
      .next (ended { s with held := false, events := s.events ++ [.bw 0x40#7, .wb a, .wb b, .ew true] } .none)

/-- How the environment's answers are split over steps does not matter: an operation that was left waiting and then given the rest of the
answers ends in the state it ends in when given all of them at once (20_memory.md R66: "nothing reorders, merges, repeats or drops an event";
the split itself is the model's form, log 2). -/
def Obligations.SplittingTheAnswersChangesNothing : Prop :=
  ∀ (i : Instr) (s m : State) (rx : List (Option Byte)) (clk : List Nat),
    s.busy = true → exec i s = .next m → m.busy = true →
    exec i { m with rx := m.rx ++ rx, clock := m.clock ++ clk } = exec i { s with rx := s.rx ++ rx, clock := s.clock ++ clk }

/-! ## The decoder (43_decoder.md) -/

/-- 43_decoder.md R207, DECT: RAW and VAL of the immediate or of RB[0], RB[1]; IllegalOp by value where these were not received. -/
def Obligations.DectDecodesATemperature : Prop :=
  (∀ r : Half, decode (0x10000000#32 ||| r.setWidth 32) = .ok (.dect (.imm r))) ∧
  decode 0x10800000#32 = .ok (.dect .buffer) ∧
  (∀ w : Word, w.toNat / 0x1000000 = 0x10 →
    (((w.toNat / 0x800000) % 2 = 1 ∧ w.toNat % 0x10000 ≠ 0) ∨ (w.toNat / 0x10000) % 128 ≠ 0) → Rejected w) ∧
  ∀ (s : State) (r : Half),
    exec (.dect (.imm r)) s = .next (ended { s with raw := r, val := BitVec.ofInt 16 (hundredthsT r.toNat) } .none) ∧
    (s.rlen < 2 → exec (.dect .buffer) s = .next (ended s .illegalOp)) ∧
    (2 ≤ s.rlen → r.toNat = s.rb[0].toNat * 256 + s.rb[1].toNat →
      exec (.dect .buffer) s = .next (ended { s with raw := r, val := BitVec.ofInt 16 (hundredthsT r.toNat) } .none))

/-- 43_decoder.md R208, DECH: as DECT, with the humidity function. -/
def Obligations.DechDecodesAHumidity : Prop :=
  (∀ r : Half, decode (0x11000000#32 ||| r.setWidth 32) = .ok (.dech (.imm r))) ∧
  decode 0x11800000#32 = .ok (.dech .buffer) ∧
  (∀ w : Word, w.toNat / 0x1000000 = 0x11 →
    (((w.toNat / 0x800000) % 2 = 1 ∧ w.toNat % 0x10000 ≠ 0) ∨ (w.toNat / 0x10000) % 128 ≠ 0) → Rejected w) ∧
  ∀ (s : State) (r : Half),
    exec (.dech (.imm r)) s = .next (ended { s with raw := r, val := BitVec.ofInt 16 (hundredthsH r.toNat) } .none) ∧
    (s.rlen < 2 → exec (.dech .buffer) s = .next (ended s .illegalOp)) ∧
    (2 ≤ s.rlen → r.toNat = s.rb[0].toNat * 256 + s.rb[1].toNat →
      exec (.dech .buffer) s = .next (ended { s with raw := r, val := BitVec.ofInt 16 (hundredthsH r.toNat) } .none))

/-- 43_decoder.md R204: VAL/100 is within half a hundredth of the exact rational value (ties up), and the ties are exactly four. -/
def Obligations.DecoderIsAccurateToHalfAHundredth : Prop :=
  ∀ r : Half,
    (-(1 / 200 : ℚ) < (decT r : ℚ) / 100 - (17572 * (r.toNat : ℚ) / 6553600 - 4685 / 100) ∧
      (decT r : ℚ) / 100 - (17572 * (r.toNat : ℚ) / 6553600 - 4685 / 100) ≤ 1 / 200) ∧
    (-(1 / 200 : ℚ) < (decH r : ℚ) / 100 - (12500 * (r.toNat : ℚ) / 6553600 - 600 / 100) ∧
      (decH r : ℚ) / 100 - (12500 * (r.toNat : ℚ) / 6553600 - 600 / 100) ≤ 1 / 200) ∧
    ((decT r : ℚ) / 100 - (17572 * (r.toNat : ℚ) / 6553600 - 4685 / 100) = 1 / 200 ↔
      r.toNat = 0x2000 ∨ r.toNat = 0x6000 ∨ r.toNat = 0xA000 ∨ r.toNat = 0xE000) ∧
    ((decH r : ℚ) / 100 - (12500 * (r.toNat : ℚ) / 6553600 - 600 / 100) = 1 / 200 ↔
      r.toNat = 0x2000 ∨ r.toNat = 0x6000 ∨ r.toNat = 0xA000 ∨ r.toNat = 0xE000) ∧
    (r.toNat = 0x2000 → decT r = -2488 ∧ decH r = 963) ∧ (r.toNat = 0x6000 → decT r = 1905 ∧ decH r = 4088) ∧
    (r.toNat = 0xA000 → decT r = 6298 ∧ decH r = 7213) ∧ (r.toNat = 0xE000 → decT r = 10691 ∧ decH r = 10338)

/-- 43_decoder.md R205: both functions are non-decreasing (not strictly) from their least to their greatest value and take every value
between, 17573 and 12501 of them, all inside the s16 range, so VAL holds them without overflow. -/
def Obligations.DecoderFitsSixteenBitsAndIsMonotone : Prop :=
  decT 0x0000#16 = -4685 ∧ decT 0xFFFF#16 = 12887 ∧ decH 0x0000#16 = -600 ∧ decH 0xFFFF#16 = 11900 ∧
  (∀ r : Half, (s16 (decT r)).toInt = decT r ∧ (s16 (decH r)).toInt = decH r) ∧
  (∀ r r' : Half, r.toNat ≤ r'.toNat → decT r ≤ decT r' ∧ decH r ≤ decH r') ∧
  decT 0x0000#16 = decT 0x0001#16 ∧ decH 0x0000#16 = decH 0x0001#16 ∧
  (∀ v : Int, -4685 ≤ v → v ≤ 12887 → ∃ r : Half, decT r = v) ∧ (12887 - (-4685) + 1 : Int) = 17573 ∧
  (∀ v : Int, -600 ≤ v → v ≤ 11900 → ∃ r : Half, decH r = v) ∧ (11900 - (-600) + 1 : Int) = 12501

/-! ## The protocol operations (42_protocol.md) -/

/-- 42_protocol.md R172, MEAST: reading, decoded, where the checksum fits; ChecksumMismatch with `RAW = VAL = 0` where it does not; Timeout
with `RAW = VAL = 0`, ACC and CRCOK unchanged. -/
def Obligations.MeastMeasuresTemperature : Prop :=
  decode 0x20000000#32 = .ok .meast ∧
  ∀ (s : State) (t : Nat) (rx rxR : List (Option Byte)) (clk clkR : List Nat) (evs : List Event),
    s.inTransfer = false → Answered s t rx clk rxR clkR →
    (∀ b0 b1 b2 : Byte, Delivers s.params.w (t % 2 ^ s.params.w) 3 rx clk [b0, b1, b2] evs →
      (b2.toNat = crcWide [b0, b1] →
        exec .meast s = .next (ended { afterRead s [0xE3#8] 3 true t [b0, b1, b2] evs rxR clkR with
          acc := b2, crcok := true, raw := BitVec.ofNat 16 (b0.toNat * 256 + b1.toNat),
          val := BitVec.ofInt 16 (hundredthsT (b0.toNat * 256 + b1.toNat)) } .none)) ∧
      (b2.toNat ≠ crcWide [b0, b1] →
        exec .meast s = .next (ended { afterRead s [0xE3#8] 3 true t [b0, b1, b2] evs rxR clkR with
          acc := BitVec.ofNat 8 (crcWide [b0, b1]), crcok := false, raw := 0x0000#16, val := 0x0000#16 } .checksumMismatch))) ∧
    (∀ bs : List Byte, TimesOut s.params.w (t % 2 ^ s.params.w) 3 rx clk bs evs →
      exec .meast s = .next (ended { afterTimeout s [0xE3#8] 3 true t bs evs rxR clkR with
        raw := 0x0000#16, val := 0x0000#16 } .timeout))

/-- 42_protocol.md R173, MEASH: as MEAST, with command 0xE5 and the humidity function. -/
def Obligations.MeashMeasuresHumidity : Prop :=
  decode 0x21000000#32 = .ok .meash ∧
  ∀ (s : State) (t : Nat) (rx rxR : List (Option Byte)) (clk clkR : List Nat) (evs : List Event),
    s.inTransfer = false → Answered s t rx clk rxR clkR →
    (∀ b0 b1 b2 : Byte, Delivers s.params.w (t % 2 ^ s.params.w) 3 rx clk [b0, b1, b2] evs →
      (b2.toNat = crcWide [b0, b1] →
        exec .meash s = .next (ended { afterRead s [0xE5#8] 3 true t [b0, b1, b2] evs rxR clkR with
          acc := b2, crcok := true, raw := BitVec.ofNat 16 (b0.toNat * 256 + b1.toNat),
          val := BitVec.ofInt 16 (hundredthsH (b0.toNat * 256 + b1.toNat)) } .none)) ∧
      (b2.toNat ≠ crcWide [b0, b1] →
        exec .meash s = .next (ended { afterRead s [0xE5#8] 3 true t [b0, b1, b2] evs rxR clkR with
          acc := BitVec.ofNat 8 (crcWide [b0, b1]), crcok := false, raw := 0x0000#16, val := 0x0000#16 } .checksumMismatch))) ∧
    (∀ bs : List Byte, TimesOut s.params.w (t % 2 ^ s.params.w) 3 rx clk bs evs →
      exec .meash s = .next (ended { afterTimeout s [0xE5#8] 3 true t bs evs rxR clkR with
        raw := 0x0000#16, val := 0x0000#16 } .timeout))

/-- 42_protocol.md R174, SRST: command 0xFE with a full stop, `HELD <- 0`, never an error, nothing else changed. -/
def Obligations.SrstSendsTheSoftReset : Prop :=
  decode 0x22000000#32 = .ok .srst ∧
  ∀ s : State,
    exec .srst s = .next (ended { s with held := false, events := s.events ++ [.bw 0x40#7, .wb 0xFE#8, .ew true] } .none)

/-- SRST issues the events of `XWR {0xFE}` and leaves the same state, but for the word in OP (30_encoding.md R98). -/
def Obligations.SrstActsAsXwrOfTheResetCommand : Prop :=
  ∀ (s : State) (w : Word), s.busy = false → s.script = [.write 0 4 0x22000000#32] →
    ∃ t u, step s = .next t ∧ step { s with script := [.write 0 4 0x0200FE00#32] } = .next u ∧
      t.op = 0x22000000#32 ∧ u.op = 0x0200FE00#32 ∧ { t with op := w } = { u with op := w }

/-- 42_protocol.md R175, RDUR: the byte goes to URD; a byte 0x00 and a timeout both end in DeviceAbsent with `URD = 0`, told apart by RLEN. -/
def Obligations.RdurReadsTheUserRegister : Prop :=
  decode 0x23000000#32 = .ok (.rdur false) ∧ decode 0x23800000#32 = .ok (.rdur true) ∧
  ∀ (s : State) (rel : Bool) (t : Nat) (rx rxR : List (Option Byte)) (clk clkR : List Nat) (evs : List Event),
    s.inTransfer = false → Answered s t rx clk rxR clkR →
    (∀ u : Byte, Delivers s.params.w (t % 2 ^ s.params.w) 1 rx clk [u] evs →
      (u ≠ 0x00#8 → exec (.rdur rel) s =
        .next (ended { afterRead s [0xE7#8] 1 rel t [u] evs rxR clkR with urd := u } .none)) ∧
      (u = 0x00#8 → exec (.rdur rel) s =
        .next (ended { afterRead s [0xE7#8] 1 rel t [u] evs rxR clkR with urd := 0x00#8 } .deviceAbsent))) ∧
    (∀ bs : List Byte, TimesOut s.params.w (t % 2 ^ s.params.w) 1 rx clk bs evs →
      exec (.rdur rel) s =
        .next (ended { afterTimeout s [0xE7#8] 1 rel t bs evs rxR clkR with urd := 0x00#8 } .deviceAbsent))

/-- 42_protocol.md R176, SETRES: the register read with the bus held, its low six bits kept, the code in bits [7:6], written back with a full
stop in every case; DeviceAbsent only after the write. -/
def Obligations.SetresRewritesTheResolution : Prop :=
  (∀ code : BitVec 2, decode (0x24000000#32 ||| code.setWidth 32) = .ok (.setres code)) ∧
  ∀ (s : State) (code : BitVec 2) (t : Nat) (rx rxR : List (Option Byte)) (clk clkR : List Nat) (evs : List Event),
    s.inTransfer = false → Answered s t rx clk rxR clkR →
    (∀ u v : Byte, Delivers s.params.w (t % 2 ^ s.params.w) 1 rx clk [u] evs →
      v.toNat = u.toNat % 64 + code.toNat * 64 →
      exec (.setres code) s = .next (ended { afterRead s [0xE7#8] 1 false t [u] evs rxR clkR with
        urd := u, urw := v, held := false,
        events := s.events ++ requestEvents [0xE7#8] 1 false (t % 2 ^ s.params.w) ++ evs ++
          [.bw 0x40#7, .wb 0xE6#8, .wb v, .ew true] }
        (if u = 0x00#8 then .deviceAbsent else .none))) ∧
    (∀ (bs : List Byte) (v : Byte), TimesOut s.params.w (t % 2 ^ s.params.w) 1 rx clk bs evs →
      v.toNat = code.toNat * 64 →
      exec (.setres code) s = .next (ended { afterTimeout s [0xE7#8] 1 false t bs evs rxR clkR with
        urd := 0x00#8, urw := v, held := false,
        events := s.events ++ requestEvents [0xE7#8] 1 false (t % 2 ^ s.params.w) ++ evs ++
          [.bw 0x40#7, .wb 0xE6#8, .wb v, .ew true] }
        .deviceAbsent))

/-- RDSN (42_protocol.md R177): two pages delivered, all six checksums fitting where they are tested, give the serial number in the document's
order; with `SN_CRC_CHECK = false` whatever the checksums are. (The fields for the page and the latches are the model's: log 10.) -/
def Obligations.RdsnReadsTheSerialNumber : Prop :=
  decode 0x25000000#32 = .ok .rdsn ∧
  ∀ (s : State) (tA tB : Nat) (rxA rxB rxR : List (Option Byte)) (clkA clkB clkR : List Nat) (evsA evsB : List Event)
    (a0 a1 a2 a3 a4 a5 a6 a7 b0 b1 b2 b3 b4 b5 : Byte),
    s.inTransfer = false → Answered s tA rxA clkA (rxB ++ rxR) (tB :: (clkB ++ clkR)) →
    Delivers s.params.w (tA % 2 ^ s.params.w) 8 rxA clkA [a0, a1, a2, a3, a4, a5, a6, a7] evsA →
    Delivers s.params.w (tB % 2 ^ s.params.w) 6 rxB clkB [b0, b1, b2, b3, b4, b5] evsB →
    (s.params.snCrcCheck = true →
      crc [a0] = a1 ∧ crc [a2] = a3 ∧ crc [a4] = a5 ∧ crc [a6] = a7 ∧ crc [b0, b1] = b2 ∧ crc [b3, b4] = b5) →
    ∃ pageA : State, pageA = afterRead s [0xFA#8, 0x0F#8] 8 true tA [a0, a1, a2, a3, a4, a5, a6, a7] evsA
        (rxB ++ rxR) (tB :: (clkB ++ clkR)) ∧
      exec .rdsn s = .next (ended { afterRead pageA [0xFC#8, 0xC9#8] 6 true tB [b0, b1, b2, b3, b4, b5] evsB rxR clkR with
        sn := #v[b3, b4, a0, a2, a4, a6, b0, b1], latch := #v[a0, a2, a4, a6], page := .b,
        acc := if s.params.snCrcCheck then b5 else s.acc,
        crcok := if s.params.snCrcCheck then true else s.crcok } .none)

/-- RDSN (42_protocol.md R177, 60_exceptions.md R226): the first checksum that does not fit ends it with ChecksumMismatch, SN all zero, RB the page
that failed; a failure in page A means page B is never requested. -/
def Obligations.RdsnStopsAtTheFirstBadChecksum : Prop :=
  ∀ (s : State) (tA tB : Nat) (rxA rxB rxR : List (Option Byte)) (clkA clkB clkR : List Nat) (evsA evsB : List Event)
    (a b : List Byte),
    s.inTransfer = false → s.params.snCrcCheck = true →
    Delivers s.params.w (tA % 2 ^ s.params.w) 8 rxA clkA a evsA →
    (∀ k : Nat, k < 4 → Answered s tA rxA clkA rxR clkR →
      (∀ j : Nat, j < k → crc [a.getD (2 * j) 0#8] = a.getD (2 * j + 1) 0#8) →
      crc [a.getD (2 * k) 0#8] ≠ a.getD (2 * k + 1) 0#8 →
      exec .rdsn s = .next (ended { afterRead s [0xFA#8, 0x0F#8] 8 true tA a evsA rxR clkR with
        sn := padded [], page := .a, acc := crc [a.getD (2 * k) 0#8], crcok := false } .checksumMismatch)) ∧
    (Delivers s.params.w (tB % 2 ^ s.params.w) 6 rxB clkB b evsB →
      Answered s tA rxA clkA (rxB ++ rxR) (tB :: (clkB ++ clkR)) →
      (∀ j : Nat, j < 4 → crc [a.getD (2 * j) 0#8] = a.getD (2 * j + 1) 0#8) →
      ∀ k : Nat, k < 2 →
      (∀ j : Nat, j < k → crc [b.getD (3 * j) 0#8, b.getD (3 * j + 1) 0#8] = b.getD (3 * j + 2) 0#8) →
      crc [b.getD (3 * k) 0#8, b.getD (3 * k + 1) 0#8] ≠ b.getD (3 * k + 2) 0#8 →
      exec .rdsn s = .next (ended
        { afterRead (afterRead s [0xFA#8, 0x0F#8] 8 true tA a evsA (rxB ++ rxR) (tB :: (clkB ++ clkR)))
            [0xFC#8, 0xC9#8] 6 true tB b evsB rxR clkR with
          sn := padded [], page := .b, latch := #v[a.getD 0 0#8, a.getD 2 0#8, a.getD 4 0#8, a.getD 6 0#8],
          acc := crc [b.getD (3 * k) 0#8, b.getD (3 * k + 1) 0#8], crcok := false } .checksumMismatch))

/-- RDSN (42_protocol.md R177): a page that does not arrive ends it with Timeout, SN all zero; after page A passed, ACC and CRCOK are what its last
check left. -/
def Obligations.RdsnReportsTimeoutOfEitherPage : Prop :=
  ∀ (s : State) (tA tB : Nat) (rxA rxB rxR : List (Option Byte)) (clkA clkB clkR : List Nat) (evsA evsB : List Event)
    (a b : List Byte), s.inTransfer = false →
    (TimesOut s.params.w (tA % 2 ^ s.params.w) 8 rxA clkA a evsA → Answered s tA rxA clkA rxR clkR →
      exec .rdsn s = .next (ended { afterTimeout s [0xFA#8, 0x0F#8] 8 true tA a evsA rxR clkR with
        sn := padded [], page := .a } .timeout)) ∧
    (Delivers s.params.w (tA % 2 ^ s.params.w) 8 rxA clkA a evsA →
      TimesOut s.params.w (tB % 2 ^ s.params.w) 6 rxB clkB b evsB →
      Answered s tA rxA clkA (rxB ++ rxR) (tB :: (clkB ++ clkR)) →
      (s.params.snCrcCheck = true → ∀ j : Nat, j < 4 → crc [a.getD (2 * j) 0#8] = a.getD (2 * j + 1) 0#8) →
      exec .rdsn s = .next (ended
        { afterTimeout (afterRead s [0xFA#8, 0x0F#8] 8 true tA a evsA (rxB ++ rxR) (tB :: (clkB ++ clkR)))
            [0xFC#8, 0xC9#8] 6 true tB b evsB rxR clkR with
          sn := padded [], page := .b, latch := #v[a.getD 0 0#8, a.getD 2 0#8, a.getD 4 0#8, a.getD 6 0#8],
          acc := if s.params.snCrcCheck then crc [a.getD 6 0#8] else s.acc,
          crcok := if s.params.snCrcCheck then true else s.crcok } .timeout))

/-! ## Rules about all operations -/

/-- 42_protocol.md R170: no protocol operation reads a result register an earlier one left. Two accepted states with the same parameters and the
same answers, whatever else they hold, take the same course: the same events, status and reading registers, and the same value in every
result register the operation writes. ACC and CRCOK are written by each `validate`: by MEAST and MEASH unless the read timed out, by RDSN
where SN_CRC_CHECK is true unless page A timed out. -/
def Obligations.ProtocolOperationsAreStateless : Prop :=
  ∀ (i : Instr) (s1 s2 t1 t2 : State),
    (i = .meast ∨ i = .meash ∨ (∃ rel, i = .rdur rel) ∨ (∃ code, i = .setres code) ∨ i = .rdsn ∨ i = .srst) →
    s1.params = s2.params → s1.rx = s2.rx → s1.clock = s2.clock → s1.inTransfer = false → s2.inTransfer = false →
    s1.busy = true → s2.busy = true → s1.err = s2.err → exec i s1 = .next t1 → exec i s2 = .next t2 →
    t1.busy = t2.busy ∧ t1.err = t2.err ∧ t1.held = t2.held ∧ t1.rx = t2.rx ∧ t1.clock = t2.clock ∧
    (∃ evs, t1.events = s1.events ++ evs ∧ t2.events = s2.events ++ evs) ∧
    (i ≠ .srst → t1.rlen = t2.rlen ∧ t1.rb = t2.rb ∧ t1.ph = t2.ph ∧
      (t1.ph ≠ .req → i ≠ .rdsn → t1.t0 = t2.t0)) ∧
    (i = .meast ∨ i = .meash → t1.raw = t2.raw ∧ t1.val = t2.val ∧
      (t1.busy = false → t1.err ≠ .timeout → t1.acc = t2.acc ∧ t1.crcok = t2.crcok)) ∧
    ((∃ rel, i = .rdur rel) → t1.busy = false → t1.urd = t2.urd) ∧
    ((∃ code, i = .setres code) → t1.busy = false → t1.urd = t2.urd ∧ t1.urw = t2.urw) ∧
    (i = .rdsn → t1.sn = t2.sn ∧ t1.page = t2.page ∧ (t1.busy = false → t1.t0 = t2.t0) ∧
      (t1.busy = false → s1.params.snCrcCheck = true → ¬(t1.err = .timeout ∧ t1.page = .a) →
        t1.acc = t2.acc ∧ t1.crcok = t2.crcok))

/-- The frame of every operation: a register changes only if it is one the operation's rule names as written (40_crc.md R123 to R126, 41_transfer.md
R148, R149, 42_protocol.md R172 to R177, 43_decoder.md R207, R208). -/
def Obligations.RegistersChangeOnlyByTheirOperations : Prop :=
  ∀ (i : Instr) (s t : State), exec i s = .next t →
    t.op = s.op ∧ t.params = s.params ∧ t.script = s.script ∧ t.hostReads = s.hostReads ∧ t.draws = s.draws ∧
    (i ≠ .rdsn → t.sn = s.sn ∧ t.page = s.page ∧ t.latch = s.latch) ∧
    (i ≠ .meast → i ≠ .meash → (∀ src, i ≠ .dect src) → (∀ src, i ≠ .dech src) → t.raw = s.raw ∧ t.val = s.val) ∧
    ((∀ rel, i ≠ .rdur rel) → (∀ code, i ≠ .setres code) → t.urd = s.urd) ∧
    ((∀ code, i ≠ .setres code) → t.urw = s.urw) ∧
    (i ≠ .crci → (∀ d, i ≠ .crcb d) → (∀ off n, i ≠ .crcr off n) → i ≠ .meast → i ≠ .meash → i ≠ .rdsn → t.acc = s.acc) ∧
    ((∀ e, i ≠ .crcv e) → (∀ off n, i ≠ .crcr off n) → i ≠ .meast → i ≠ .meash → i ≠ .rdsn → t.crcok = s.crcok) ∧
    ((∀ cmd n rel, i ≠ .xfer cmd n rel) → i ≠ .meast → i ≠ .meash → (∀ rel, i ≠ .rdur rel) →
      (∀ code, i ≠ .setres code) → i ≠ .rdsn →
      t.rb = s.rb ∧ t.rlen = s.rlen ∧ t.t0 = s.t0 ∧ t.rx = s.rx ∧ t.clock = s.clock ∧ t.cnt = s.cnt ∧
      ((∀ cmd, i ≠ .xwr cmd) → i ≠ .srst → t.held = s.held ∧ t.events = s.events))

/-- What an error leaves on record (60_exceptions.md R220 to R223): an operation that has ended with Timeout left RB all zero, `RLEN = 0` and
`HELD = 1`; with ChecksumMismatch `CRCOK = 0`; with DeviceAbsent `URD = 0`, and RLEN 0 or one byte 0x00; each kind only by the
operations the table names. -/
def Obligations.ErrorsLeaveTheirRecord : Prop :=
  ∀ (i : Instr) (s t : State), s.inTransfer = false → s.busy = true → exec i s = .next t → t.busy = false →
    (t.err = .timeout → t.rb = padded [] ∧ t.rlen = 0 ∧ t.held = true ∧
      (i = .meast ∨ i = .meash ∨ i = .rdsn ∨ ∃ cmd n rel, i = .xfer cmd n rel)) ∧
    (t.err = .checksumMismatch → t.crcok = false ∧
      ((t.rlen = 3 ∧ (i = .meast ∨ i = .meash)) ∨ ((t.rlen = 8 ∨ t.rlen = 6) ∧ i = .rdsn))) ∧
    (t.err = .deviceAbsent → t.urd = 0x00#8 ∧ (t.rlen = 0 ∨ (t.rlen = 1 ∧ t.rb[0] = 0x00#8)) ∧
      ((∃ rel, i = .rdur rel) ∨ ∃ code, i = .setres code)) ∧
    (t.err = .illegalOp → (∃ off n, i = .crcr off n) ∨ i = .dect .buffer ∨ i = .dech .buffer)

/-- HELD gates nothing: no operation tests it (10_state.md R34). -/
def Obligations.HeldGatesNothing : Prop :=
  ∀ (i : Instr) (s t : State) (h : Bool), exec i s = .next t →
    ∃ h', exec i { s with held := h } = .next { t with held := h' }

/-- The last sentence of 70_reset_and_hazards.md R280 for the operations that do not use the bus, with 10_state.md R34 for XWR and SRST: they
complete in the one step (the model's grain, log 2), asking the environment nothing. -/
def Obligations.OperationsWithoutAReadCompleteAtOnce : Prop :=
  ∀ (i : Instr) (s : State), readLength s.page i = none →
    ∃ t, exec i s = .next t ∧ t.busy = false ∧ t.done = true ∧ t.rx = s.rx ∧ t.clock = s.clock ∧
      ((∀ cmd, i ≠ .xwr cmd) → i ≠ .srst → t.events = s.events)

/-- HELD after an operation that has ended (10_state.md R34, 70_reset_and_hazards.md R265): XWR, SRST, SETRES, and every read with `rel = 1` that
succeeded, leave it 0; a read with `rel = 0` that succeeded and every read that timed out leave it 1. -/
def Obligations.HeldMirrorsTheLastBusPhase : Prop :=
  ∀ (i : Instr) (s t : State), s.busy = true → exec i s = .next t → t.busy = false →
    ((∃ cmd, i = .xwr cmd) ∨ i = .srst ∨ (∃ code, i = .setres code) → t.held = false) ∧
    (i = .meast ∨ i = .meash ∨ i = .rdsn → (t.held = true ↔ t.err = .timeout)) ∧
    (∀ cmd n rel, i = .xfer cmd n rel → (t.held = true ↔ t.err = .timeout ∨ rel = false)) ∧
    (∀ rel, i = .rdur rel → (t.held = true ↔ t.rlen = 0 ∨ rel = false))
end

