-- ==== Sys2Proof/Laws/State.lean ====
section
/-! SUPPORT. One lemma per field per update of State, so that no proof unfolds a record update. -/

namespace Sys2Proof.Machine

/-! ### acceptance (60_exceptions.md R227) -/

@[simp] theorem State.accept_params (s : State) (w : Word) (p : Phase) : (s.accept w p).params = s.params := rfl
@[simp] theorem State.accept_op (s : State) (w : Word) (p : Phase) : (s.accept w p).op = w := rfl
@[simp] theorem State.accept_busy (s : State) (w : Word) (p : Phase) : (s.accept w p).busy = true := rfl
@[simp] theorem State.accept_done (s : State) (w : Word) (p : Phase) : (s.accept w p).done = false := rfl
@[simp] theorem State.accept_crcok (s : State) (w : Word) (p : Phase) : (s.accept w p).crcok = s.crcok := rfl
@[simp] theorem State.accept_held (s : State) (w : Word) (p : Phase) : (s.accept w p).held = s.held := rfl
@[simp] theorem State.accept_err (s : State) (w : Word) (p : Phase) : (s.accept w p).err = .none := rfl
@[simp] theorem State.accept_rlen (s : State) (w : Word) (p : Phase) : (s.accept w p).rlen = s.rlen := rfl
@[simp] theorem State.accept_rb (s : State) (w : Word) (p : Phase) : (s.accept w p).rb = s.rb := rfl
@[simp] theorem State.accept_raw (s : State) (w : Word) (p : Phase) : (s.accept w p).raw = s.raw := rfl
@[simp] theorem State.accept_val (s : State) (w : Word) (p : Phase) : (s.accept w p).val = s.val := rfl
@[simp] theorem State.accept_sn (s : State) (w : Word) (p : Phase) : (s.accept w p).sn = s.sn := rfl
@[simp] theorem State.accept_urd (s : State) (w : Word) (p : Phase) : (s.accept w p).urd = s.urd := rfl
@[simp] theorem State.accept_urw (s : State) (w : Word) (p : Phase) : (s.accept w p).urw = s.urw := rfl
@[simp] theorem State.accept_acc (s : State) (w : Word) (p : Phase) : (s.accept w p).acc = s.acc := rfl
@[simp] theorem State.accept_t0 (s : State) (w : Word) (p : Phase) : (s.accept w p).t0 = s.t0 := rfl
@[simp] theorem State.accept_ph (s : State) (w : Word) (p : Phase) : (s.accept w p).ph = p := rfl
@[simp] theorem State.accept_cnt (s : State) (w : Word) (p : Phase) : (s.accept w p).cnt = s.cnt := rfl
@[simp] theorem State.accept_page (s : State) (w : Word) (p : Phase) : (s.accept w p).page = s.page := rfl
@[simp] theorem State.accept_latch (s : State) (w : Word) (p : Phase) : (s.accept w p).latch = s.latch := rfl
@[simp] theorem State.accept_events (s : State) (w : Word) (p : Phase) : (s.accept w p).events = s.events := rfl
@[simp] theorem State.accept_rx (s : State) (w : Word) (p : Phase) : (s.accept w p).rx = s.rx := rfl
@[simp] theorem State.accept_clock (s : State) (w : Word) (p : Phase) : (s.accept w p).clock = s.clock := rfl
@[simp] theorem State.accept_script (s : State) (w : Word) (p : Phase) : (s.accept w p).script = s.script := rfl
@[simp] theorem State.accept_hostReads (s : State) (w : Word) (p : Phase) : (s.accept w p).hostReads = s.hostReads := rfl
@[simp] theorem State.accept_draws (s : State) (w : Word) (p : Phase) : (s.accept w p).draws = s.draws := rfl

/-! ### completion (60_exceptions.md R227) -/

@[simp] theorem State.finish_params (s : State) (e : ErrKind) : (s.finish e).params = s.params := rfl
@[simp] theorem State.finish_op (s : State) (e : ErrKind) : (s.finish e).op = s.op := rfl
@[simp] theorem State.finish_busy (s : State) (e : ErrKind) : (s.finish e).busy = false := rfl
@[simp] theorem State.finish_done (s : State) (e : ErrKind) : (s.finish e).done = true := rfl
@[simp] theorem State.finish_crcok (s : State) (e : ErrKind) : (s.finish e).crcok = s.crcok := rfl
@[simp] theorem State.finish_held (s : State) (e : ErrKind) : (s.finish e).held = s.held := rfl
@[simp] theorem State.finish_err (s : State) (e : ErrKind) : (s.finish e).err = e := rfl
@[simp] theorem State.finish_rlen (s : State) (e : ErrKind) : (s.finish e).rlen = s.rlen := rfl
@[simp] theorem State.finish_rb (s : State) (e : ErrKind) : (s.finish e).rb = s.rb := rfl
@[simp] theorem State.finish_raw (s : State) (e : ErrKind) : (s.finish e).raw = s.raw := rfl
@[simp] theorem State.finish_val (s : State) (e : ErrKind) : (s.finish e).val = s.val := rfl
@[simp] theorem State.finish_sn (s : State) (e : ErrKind) : (s.finish e).sn = s.sn := rfl
@[simp] theorem State.finish_urd (s : State) (e : ErrKind) : (s.finish e).urd = s.urd := rfl
@[simp] theorem State.finish_urw (s : State) (e : ErrKind) : (s.finish e).urw = s.urw := rfl
@[simp] theorem State.finish_acc (s : State) (e : ErrKind) : (s.finish e).acc = s.acc := rfl
@[simp] theorem State.finish_t0 (s : State) (e : ErrKind) : (s.finish e).t0 = s.t0 := rfl
@[simp] theorem State.finish_ph (s : State) (e : ErrKind) : (s.finish e).ph = .idle := rfl
@[simp] theorem State.finish_cnt (s : State) (e : ErrKind) : (s.finish e).cnt = s.cnt := rfl
@[simp] theorem State.finish_page (s : State) (e : ErrKind) : (s.finish e).page = s.page := rfl
@[simp] theorem State.finish_latch (s : State) (e : ErrKind) : (s.finish e).latch = s.latch := rfl
@[simp] theorem State.finish_events (s : State) (e : ErrKind) : (s.finish e).events = s.events := rfl
@[simp] theorem State.finish_rx (s : State) (e : ErrKind) : (s.finish e).rx = s.rx := rfl
@[simp] theorem State.finish_clock (s : State) (e : ErrKind) : (s.finish e).clock = s.clock := rfl
@[simp] theorem State.finish_script (s : State) (e : ErrKind) : (s.finish e).script = s.script := rfl
@[simp] theorem State.finish_hostReads (s : State) (e : ErrKind) : (s.finish e).hostReads = s.hostReads := rfl
@[simp] theorem State.finish_draws (s : State) (e : ErrKind) : (s.finish e).draws = s.draws := rfl

/-! ### an illegal word (60_exceptions.md R224) -/

@[simp] theorem State.rejectWord_params (s : State) (w : Word) : (s.rejectWord w).params = s.params := rfl
@[simp] theorem State.rejectWord_op (s : State) (w : Word) : (s.rejectWord w).op = w := rfl
@[simp] theorem State.rejectWord_busy (s : State) (w : Word) : (s.rejectWord w).busy = s.busy := rfl
@[simp] theorem State.rejectWord_done (s : State) (w : Word) : (s.rejectWord w).done = true := rfl
@[simp] theorem State.rejectWord_crcok (s : State) (w : Word) : (s.rejectWord w).crcok = s.crcok := rfl
@[simp] theorem State.rejectWord_held (s : State) (w : Word) : (s.rejectWord w).held = s.held := rfl
@[simp] theorem State.rejectWord_err (s : State) (w : Word) : (s.rejectWord w).err = .illegalOp := rfl
@[simp] theorem State.rejectWord_rlen (s : State) (w : Word) : (s.rejectWord w).rlen = s.rlen := rfl
@[simp] theorem State.rejectWord_rb (s : State) (w : Word) : (s.rejectWord w).rb = s.rb := rfl
@[simp] theorem State.rejectWord_raw (s : State) (w : Word) : (s.rejectWord w).raw = s.raw := rfl
@[simp] theorem State.rejectWord_val (s : State) (w : Word) : (s.rejectWord w).val = s.val := rfl
@[simp] theorem State.rejectWord_sn (s : State) (w : Word) : (s.rejectWord w).sn = s.sn := rfl
@[simp] theorem State.rejectWord_urd (s : State) (w : Word) : (s.rejectWord w).urd = s.urd := rfl
@[simp] theorem State.rejectWord_urw (s : State) (w : Word) : (s.rejectWord w).urw = s.urw := rfl
@[simp] theorem State.rejectWord_acc (s : State) (w : Word) : (s.rejectWord w).acc = s.acc := rfl
@[simp] theorem State.rejectWord_t0 (s : State) (w : Word) : (s.rejectWord w).t0 = s.t0 := rfl
@[simp] theorem State.rejectWord_ph (s : State) (w : Word) : (s.rejectWord w).ph = s.ph := rfl
@[simp] theorem State.rejectWord_cnt (s : State) (w : Word) : (s.rejectWord w).cnt = s.cnt := rfl
@[simp] theorem State.rejectWord_page (s : State) (w : Word) : (s.rejectWord w).page = s.page := rfl
@[simp] theorem State.rejectWord_latch (s : State) (w : Word) : (s.rejectWord w).latch = s.latch := rfl
@[simp] theorem State.rejectWord_events (s : State) (w : Word) : (s.rejectWord w).events = s.events := rfl
@[simp] theorem State.rejectWord_rx (s : State) (w : Word) : (s.rejectWord w).rx = s.rx := rfl
@[simp] theorem State.rejectWord_clock (s : State) (w : Word) : (s.rejectWord w).clock = s.clock := rfl
@[simp] theorem State.rejectWord_script (s : State) (w : Word) : (s.rejectWord w).script = s.script := rfl
@[simp] theorem State.rejectWord_hostReads (s : State) (w : Word) : (s.rejectWord w).hostReads = s.hostReads := rfl
@[simp] theorem State.rejectWord_draws (s : State) (w : Word) : (s.rejectWord w).draws = s.draws := rfl

/-! ### a write phase with a full stop (41_transfer.md R149) -/

@[simp] theorem State.xwr_params (s : State) (c : List Byte) : (s.xwr c).params = s.params := rfl
@[simp] theorem State.xwr_op (s : State) (c : List Byte) : (s.xwr c).op = s.op := rfl
@[simp] theorem State.xwr_busy (s : State) (c : List Byte) : (s.xwr c).busy = s.busy := rfl
@[simp] theorem State.xwr_done (s : State) (c : List Byte) : (s.xwr c).done = s.done := rfl
@[simp] theorem State.xwr_crcok (s : State) (c : List Byte) : (s.xwr c).crcok = s.crcok := rfl
@[simp] theorem State.xwr_held (s : State) (c : List Byte) : (s.xwr c).held = false := rfl
@[simp] theorem State.xwr_err (s : State) (c : List Byte) : (s.xwr c).err = s.err := rfl
@[simp] theorem State.xwr_rlen (s : State) (c : List Byte) : (s.xwr c).rlen = s.rlen := rfl
@[simp] theorem State.xwr_rb (s : State) (c : List Byte) : (s.xwr c).rb = s.rb := rfl
@[simp] theorem State.xwr_raw (s : State) (c : List Byte) : (s.xwr c).raw = s.raw := rfl
@[simp] theorem State.xwr_val (s : State) (c : List Byte) : (s.xwr c).val = s.val := rfl
@[simp] theorem State.xwr_sn (s : State) (c : List Byte) : (s.xwr c).sn = s.sn := rfl
@[simp] theorem State.xwr_urd (s : State) (c : List Byte) : (s.xwr c).urd = s.urd := rfl
@[simp] theorem State.xwr_urw (s : State) (c : List Byte) : (s.xwr c).urw = s.urw := rfl
@[simp] theorem State.xwr_acc (s : State) (c : List Byte) : (s.xwr c).acc = s.acc := rfl
@[simp] theorem State.xwr_t0 (s : State) (c : List Byte) : (s.xwr c).t0 = s.t0 := rfl
@[simp] theorem State.xwr_ph (s : State) (c : List Byte) : (s.xwr c).ph = s.ph := rfl
@[simp] theorem State.xwr_cnt (s : State) (c : List Byte) : (s.xwr c).cnt = s.cnt := rfl
@[simp] theorem State.xwr_page (s : State) (c : List Byte) : (s.xwr c).page = s.page := rfl
@[simp] theorem State.xwr_latch (s : State) (c : List Byte) : (s.xwr c).latch = s.latch := rfl
@[simp] theorem State.xwr_events (s : State) (c : List Byte) : (s.xwr c).events = s.events ++ writePhase c true := rfl
@[simp] theorem State.xwr_rx (s : State) (c : List Byte) : (s.xwr c).rx = s.rx := rfl
@[simp] theorem State.xwr_clock (s : State) (c : List Byte) : (s.xwr c).clock = s.clock := rfl
@[simp] theorem State.xwr_script (s : State) (c : List Byte) : (s.xwr c).script = s.script := rfl
@[simp] theorem State.xwr_hostReads (s : State) (c : List Byte) : (s.xwr c).hostReads = s.hostReads := rfl
@[simp] theorem State.xwr_draws (s : State) (c : List Byte) : (s.xwr c).draws = s.draws := rfl

/-! ### the request of a read (41_transfer.md R141, R142) -/

@[simp] theorem State.beginRead_params (s : State) (c : List Byte) (n : Nat) (r : Bool) : (s.beginRead c n r).params = s.params := rfl
@[simp] theorem State.beginRead_op (s : State) (c : List Byte) (n : Nat) (r : Bool) : (s.beginRead c n r).op = s.op := rfl
@[simp] theorem State.beginRead_busy (s : State) (c : List Byte) (n : Nat) (r : Bool) : (s.beginRead c n r).busy = s.busy := rfl
@[simp] theorem State.beginRead_done (s : State) (c : List Byte) (n : Nat) (r : Bool) : (s.beginRead c n r).done = s.done := rfl
@[simp] theorem State.beginRead_crcok (s : State) (c : List Byte) (n : Nat) (r : Bool) : (s.beginRead c n r).crcok = s.crcok := rfl
@[simp] theorem State.beginRead_held (s : State) (c : List Byte) (n : Nat) (r : Bool) : (s.beginRead c n r).held = true := rfl
@[simp] theorem State.beginRead_err (s : State) (c : List Byte) (n : Nat) (r : Bool) : (s.beginRead c n r).err = s.err := rfl
@[simp] theorem State.beginRead_rlen (s : State) (c : List Byte) (n : Nat) (r : Bool) : (s.beginRead c n r).rlen = 0 := rfl
@[simp] theorem State.beginRead_rb (s : State) (c : List Byte) (n : Nat) (r : Bool) : (s.beginRead c n r).rb = zeros8 := rfl
@[simp] theorem State.beginRead_raw (s : State) (c : List Byte) (n : Nat) (r : Bool) : (s.beginRead c n r).raw = s.raw := rfl
@[simp] theorem State.beginRead_val (s : State) (c : List Byte) (n : Nat) (r : Bool) : (s.beginRead c n r).val = s.val := rfl
@[simp] theorem State.beginRead_sn (s : State) (c : List Byte) (n : Nat) (r : Bool) : (s.beginRead c n r).sn = s.sn := rfl
@[simp] theorem State.beginRead_urd (s : State) (c : List Byte) (n : Nat) (r : Bool) : (s.beginRead c n r).urd = s.urd := rfl
@[simp] theorem State.beginRead_urw (s : State) (c : List Byte) (n : Nat) (r : Bool) : (s.beginRead c n r).urw = s.urw := rfl
@[simp] theorem State.beginRead_acc (s : State) (c : List Byte) (n : Nat) (r : Bool) : (s.beginRead c n r).acc = s.acc := rfl
@[simp] theorem State.beginRead_t0 (s : State) (c : List Byte) (n : Nat) (r : Bool) : (s.beginRead c n r).t0 = s.t0 := rfl
@[simp] theorem State.beginRead_ph (s : State) (c : List Byte) (n : Nat) (r : Bool) : (s.beginRead c n r).ph = .req := rfl
@[simp] theorem State.beginRead_cnt (s : State) (c : List Byte) (n : Nat) (r : Bool) : (s.beginRead c n r).cnt = 0 := rfl
@[simp] theorem State.beginRead_page (s : State) (c : List Byte) (n : Nat) (r : Bool) : (s.beginRead c n r).page = s.page := rfl
@[simp] theorem State.beginRead_latch (s : State) (c : List Byte) (n : Nat) (r : Bool) : (s.beginRead c n r).latch = s.latch := rfl
@[simp] theorem State.beginRead_events (s : State) (c : List Byte) (n : Nat) (r : Bool) : (s.beginRead c n r).events = s.events ++ writePhase c false ++ [.br Config.addr n r] := rfl
@[simp] theorem State.beginRead_rx (s : State) (c : List Byte) (n : Nat) (r : Bool) : (s.beginRead c n r).rx = s.rx := rfl
@[simp] theorem State.beginRead_clock (s : State) (c : List Byte) (n : Nat) (r : Bool) : (s.beginRead c n r).clock = s.clock := rfl
@[simp] theorem State.beginRead_script (s : State) (c : List Byte) (n : Nat) (r : Bool) : (s.beginRead c n r).script = s.script := rfl
@[simp] theorem State.beginRead_hostReads (s : State) (c : List Byte) (n : Nat) (r : Bool) : (s.beginRead c n r).hostReads = s.hostReads := rfl
@[simp] theorem State.beginRead_draws (s : State) (c : List Byte) (n : Nat) (r : Bool) : (s.beginRead c n r).draws = s.draws := rfl

/-! ### the start sample (41_transfer.md R143) -/

@[simp] theorem State.sampleStart_params (s : State) (t : Nat) (ts : List Nat) : (s.sampleStart t ts).params = s.params := rfl
@[simp] theorem State.sampleStart_op (s : State) (t : Nat) (ts : List Nat) : (s.sampleStart t ts).op = s.op := rfl
@[simp] theorem State.sampleStart_busy (s : State) (t : Nat) (ts : List Nat) : (s.sampleStart t ts).busy = s.busy := rfl
@[simp] theorem State.sampleStart_done (s : State) (t : Nat) (ts : List Nat) : (s.sampleStart t ts).done = s.done := rfl
@[simp] theorem State.sampleStart_crcok (s : State) (t : Nat) (ts : List Nat) : (s.sampleStart t ts).crcok = s.crcok := rfl
@[simp] theorem State.sampleStart_held (s : State) (t : Nat) (ts : List Nat) : (s.sampleStart t ts).held = s.held := rfl
@[simp] theorem State.sampleStart_err (s : State) (t : Nat) (ts : List Nat) : (s.sampleStart t ts).err = s.err := rfl
@[simp] theorem State.sampleStart_rlen (s : State) (t : Nat) (ts : List Nat) : (s.sampleStart t ts).rlen = s.rlen := rfl
@[simp] theorem State.sampleStart_rb (s : State) (t : Nat) (ts : List Nat) : (s.sampleStart t ts).rb = s.rb := rfl
@[simp] theorem State.sampleStart_raw (s : State) (t : Nat) (ts : List Nat) : (s.sampleStart t ts).raw = s.raw := rfl
@[simp] theorem State.sampleStart_val (s : State) (t : Nat) (ts : List Nat) : (s.sampleStart t ts).val = s.val := rfl
@[simp] theorem State.sampleStart_sn (s : State) (t : Nat) (ts : List Nat) : (s.sampleStart t ts).sn = s.sn := rfl
@[simp] theorem State.sampleStart_urd (s : State) (t : Nat) (ts : List Nat) : (s.sampleStart t ts).urd = s.urd := rfl
@[simp] theorem State.sampleStart_urw (s : State) (t : Nat) (ts : List Nat) : (s.sampleStart t ts).urw = s.urw := rfl
@[simp] theorem State.sampleStart_acc (s : State) (t : Nat) (ts : List Nat) : (s.sampleStart t ts).acc = s.acc := rfl
@[simp] theorem State.sampleStart_t0 (s : State) (t : Nat) (ts : List Nat) : (s.sampleStart t ts).t0 = s.sampled t := rfl
@[simp] theorem State.sampleStart_ph (s : State) (t : Nat) (ts : List Nat) : (s.sampleStart t ts).ph = .poll := rfl
@[simp] theorem State.sampleStart_cnt (s : State) (t : Nat) (ts : List Nat) : (s.sampleStart t ts).cnt = s.cnt := rfl
@[simp] theorem State.sampleStart_page (s : State) (t : Nat) (ts : List Nat) : (s.sampleStart t ts).page = s.page := rfl
@[simp] theorem State.sampleStart_latch (s : State) (t : Nat) (ts : List Nat) : (s.sampleStart t ts).latch = s.latch := rfl
@[simp] theorem State.sampleStart_events (s : State) (t : Nat) (ts : List Nat) : (s.sampleStart t ts).events = s.events ++ [.now (s.sampled t)] := rfl
@[simp] theorem State.sampleStart_rx (s : State) (t : Nat) (ts : List Nat) : (s.sampleStart t ts).rx = s.rx := rfl
@[simp] theorem State.sampleStart_clock (s : State) (t : Nat) (ts : List Nat) : (s.sampleStart t ts).clock = ts := rfl
@[simp] theorem State.sampleStart_script (s : State) (t : Nat) (ts : List Nat) : (s.sampleStart t ts).script = s.script := rfl
@[simp] theorem State.sampleStart_hostReads (s : State) (t : Nat) (ts : List Nat) : (s.sampleStart t ts).hostReads = s.hostReads := rfl
@[simp] theorem State.sampleStart_draws (s : State) (t : Nat) (ts : List Nat) : (s.sampleStart t ts).draws = s.draws := rfl

/-! ### a byte taken (41_transfer.md R144) -/

@[simp] theorem State.takeByte_params (s : State) (b : Byte) (l : List (Option Byte)) : (s.takeByte b l).params = s.params := rfl
@[simp] theorem State.takeByte_op (s : State) (b : Byte) (l : List (Option Byte)) : (s.takeByte b l).op = s.op := rfl
@[simp] theorem State.takeByte_busy (s : State) (b : Byte) (l : List (Option Byte)) : (s.takeByte b l).busy = s.busy := rfl
@[simp] theorem State.takeByte_done (s : State) (b : Byte) (l : List (Option Byte)) : (s.takeByte b l).done = s.done := rfl
@[simp] theorem State.takeByte_crcok (s : State) (b : Byte) (l : List (Option Byte)) : (s.takeByte b l).crcok = s.crcok := rfl
@[simp] theorem State.takeByte_held (s : State) (b : Byte) (l : List (Option Byte)) : (s.takeByte b l).held = s.held := rfl
@[simp] theorem State.takeByte_err (s : State) (b : Byte) (l : List (Option Byte)) : (s.takeByte b l).err = s.err := rfl
@[simp] theorem State.takeByte_rlen (s : State) (b : Byte) (l : List (Option Byte)) : (s.takeByte b l).rlen = s.rlen := rfl
@[simp] theorem State.takeByte_rb (s : State) (b : Byte) (l : List (Option Byte)) : (s.takeByte b l).rb = s.rb.setIfInBounds s.cnt b := rfl
@[simp] theorem State.takeByte_raw (s : State) (b : Byte) (l : List (Option Byte)) : (s.takeByte b l).raw = s.raw := rfl
@[simp] theorem State.takeByte_val (s : State) (b : Byte) (l : List (Option Byte)) : (s.takeByte b l).val = s.val := rfl
@[simp] theorem State.takeByte_sn (s : State) (b : Byte) (l : List (Option Byte)) : (s.takeByte b l).sn = s.sn := rfl
@[simp] theorem State.takeByte_urd (s : State) (b : Byte) (l : List (Option Byte)) : (s.takeByte b l).urd = s.urd := rfl
@[simp] theorem State.takeByte_urw (s : State) (b : Byte) (l : List (Option Byte)) : (s.takeByte b l).urw = s.urw := rfl
@[simp] theorem State.takeByte_acc (s : State) (b : Byte) (l : List (Option Byte)) : (s.takeByte b l).acc = s.acc := rfl
@[simp] theorem State.takeByte_t0 (s : State) (b : Byte) (l : List (Option Byte)) : (s.takeByte b l).t0 = s.t0 := rfl
@[simp] theorem State.takeByte_ph (s : State) (b : Byte) (l : List (Option Byte)) : (s.takeByte b l).ph = s.ph := rfl
@[simp] theorem State.takeByte_cnt (s : State) (b : Byte) (l : List (Option Byte)) : (s.takeByte b l).cnt = s.cnt + 1 := rfl
@[simp] theorem State.takeByte_page (s : State) (b : Byte) (l : List (Option Byte)) : (s.takeByte b l).page = s.page := rfl
@[simp] theorem State.takeByte_latch (s : State) (b : Byte) (l : List (Option Byte)) : (s.takeByte b l).latch = s.latch := rfl
@[simp] theorem State.takeByte_events (s : State) (b : Byte) (l : List (Option Byte)) : (s.takeByte b l).events = s.events ++ [.av true, .rd b] := rfl
@[simp] theorem State.takeByte_rx (s : State) (b : Byte) (l : List (Option Byte)) : (s.takeByte b l).rx = l := rfl
@[simp] theorem State.takeByte_clock (s : State) (b : Byte) (l : List (Option Byte)) : (s.takeByte b l).clock = s.clock := rfl
@[simp] theorem State.takeByte_script (s : State) (b : Byte) (l : List (Option Byte)) : (s.takeByte b l).script = s.script := rfl
@[simp] theorem State.takeByte_hostReads (s : State) (b : Byte) (l : List (Option Byte)) : (s.takeByte b l).hostReads = s.hostReads := rfl
@[simp] theorem State.takeByte_draws (s : State) (b : Byte) (l : List (Option Byte)) : (s.takeByte b l).draws = s.draws := rfl

/-! ### a poll that finds nothing (41_transfer.md R144) -/

@[simp] theorem State.pollEmpty_params (s : State) (l : List (Option Byte)) (t : Nat) (ts : List Nat) : (s.pollEmpty l t ts).params = s.params := rfl
@[simp] theorem State.pollEmpty_op (s : State) (l : List (Option Byte)) (t : Nat) (ts : List Nat) : (s.pollEmpty l t ts).op = s.op := rfl
@[simp] theorem State.pollEmpty_busy (s : State) (l : List (Option Byte)) (t : Nat) (ts : List Nat) : (s.pollEmpty l t ts).busy = s.busy := rfl
@[simp] theorem State.pollEmpty_done (s : State) (l : List (Option Byte)) (t : Nat) (ts : List Nat) : (s.pollEmpty l t ts).done = s.done := rfl
@[simp] theorem State.pollEmpty_crcok (s : State) (l : List (Option Byte)) (t : Nat) (ts : List Nat) : (s.pollEmpty l t ts).crcok = s.crcok := rfl
@[simp] theorem State.pollEmpty_held (s : State) (l : List (Option Byte)) (t : Nat) (ts : List Nat) : (s.pollEmpty l t ts).held = s.held := rfl
@[simp] theorem State.pollEmpty_err (s : State) (l : List (Option Byte)) (t : Nat) (ts : List Nat) : (s.pollEmpty l t ts).err = s.err := rfl
@[simp] theorem State.pollEmpty_rlen (s : State) (l : List (Option Byte)) (t : Nat) (ts : List Nat) : (s.pollEmpty l t ts).rlen = s.rlen := rfl
@[simp] theorem State.pollEmpty_rb (s : State) (l : List (Option Byte)) (t : Nat) (ts : List Nat) : (s.pollEmpty l t ts).rb = s.rb := rfl
@[simp] theorem State.pollEmpty_raw (s : State) (l : List (Option Byte)) (t : Nat) (ts : List Nat) : (s.pollEmpty l t ts).raw = s.raw := rfl
@[simp] theorem State.pollEmpty_val (s : State) (l : List (Option Byte)) (t : Nat) (ts : List Nat) : (s.pollEmpty l t ts).val = s.val := rfl
@[simp] theorem State.pollEmpty_sn (s : State) (l : List (Option Byte)) (t : Nat) (ts : List Nat) : (s.pollEmpty l t ts).sn = s.sn := rfl
@[simp] theorem State.pollEmpty_urd (s : State) (l : List (Option Byte)) (t : Nat) (ts : List Nat) : (s.pollEmpty l t ts).urd = s.urd := rfl
@[simp] theorem State.pollEmpty_urw (s : State) (l : List (Option Byte)) (t : Nat) (ts : List Nat) : (s.pollEmpty l t ts).urw = s.urw := rfl
@[simp] theorem State.pollEmpty_acc (s : State) (l : List (Option Byte)) (t : Nat) (ts : List Nat) : (s.pollEmpty l t ts).acc = s.acc := rfl
@[simp] theorem State.pollEmpty_t0 (s : State) (l : List (Option Byte)) (t : Nat) (ts : List Nat) : (s.pollEmpty l t ts).t0 = s.t0 := rfl
@[simp] theorem State.pollEmpty_ph (s : State) (l : List (Option Byte)) (t : Nat) (ts : List Nat) : (s.pollEmpty l t ts).ph = s.ph := rfl
@[simp] theorem State.pollEmpty_cnt (s : State) (l : List (Option Byte)) (t : Nat) (ts : List Nat) : (s.pollEmpty l t ts).cnt = s.cnt := rfl
@[simp] theorem State.pollEmpty_page (s : State) (l : List (Option Byte)) (t : Nat) (ts : List Nat) : (s.pollEmpty l t ts).page = s.page := rfl
@[simp] theorem State.pollEmpty_latch (s : State) (l : List (Option Byte)) (t : Nat) (ts : List Nat) : (s.pollEmpty l t ts).latch = s.latch := rfl
@[simp] theorem State.pollEmpty_events (s : State) (l : List (Option Byte)) (t : Nat) (ts : List Nat) : (s.pollEmpty l t ts).events = s.events ++ [.av false, .now (s.sampled t)] := rfl
@[simp] theorem State.pollEmpty_rx (s : State) (l : List (Option Byte)) (t : Nat) (ts : List Nat) : (s.pollEmpty l t ts).rx = l := rfl
@[simp] theorem State.pollEmpty_clock (s : State) (l : List (Option Byte)) (t : Nat) (ts : List Nat) : (s.pollEmpty l t ts).clock = ts := rfl
@[simp] theorem State.pollEmpty_script (s : State) (l : List (Option Byte)) (t : Nat) (ts : List Nat) : (s.pollEmpty l t ts).script = s.script := rfl
@[simp] theorem State.pollEmpty_hostReads (s : State) (l : List (Option Byte)) (t : Nat) (ts : List Nat) : (s.pollEmpty l t ts).hostReads = s.hostReads := rfl
@[simp] theorem State.pollEmpty_draws (s : State) (l : List (Option Byte)) (t : Nat) (ts : List Nat) : (s.pollEmpty l t ts).draws = s.draws := rfl

/-! ### a read that succeeded (41_transfer.md R146) -/

@[simp] theorem State.readDone_params (s : State) (n : Nat) (r : Bool) : (s.readDone n r).params = s.params := rfl
@[simp] theorem State.readDone_op (s : State) (n : Nat) (r : Bool) : (s.readDone n r).op = s.op := rfl
@[simp] theorem State.readDone_busy (s : State) (n : Nat) (r : Bool) : (s.readDone n r).busy = s.busy := rfl
@[simp] theorem State.readDone_done (s : State) (n : Nat) (r : Bool) : (s.readDone n r).done = s.done := rfl
@[simp] theorem State.readDone_crcok (s : State) (n : Nat) (r : Bool) : (s.readDone n r).crcok = s.crcok := rfl
@[simp] theorem State.readDone_held (s : State) (n : Nat) (r : Bool) : (s.readDone n r).held = !r := rfl
@[simp] theorem State.readDone_err (s : State) (n : Nat) (r : Bool) : (s.readDone n r).err = s.err := rfl
@[simp] theorem State.readDone_rlen (s : State) (n : Nat) (r : Bool) : (s.readDone n r).rlen = n := rfl
@[simp] theorem State.readDone_rb (s : State) (n : Nat) (r : Bool) : (s.readDone n r).rb = s.rb := rfl
@[simp] theorem State.readDone_raw (s : State) (n : Nat) (r : Bool) : (s.readDone n r).raw = s.raw := rfl
@[simp] theorem State.readDone_val (s : State) (n : Nat) (r : Bool) : (s.readDone n r).val = s.val := rfl
@[simp] theorem State.readDone_sn (s : State) (n : Nat) (r : Bool) : (s.readDone n r).sn = s.sn := rfl
@[simp] theorem State.readDone_urd (s : State) (n : Nat) (r : Bool) : (s.readDone n r).urd = s.urd := rfl
@[simp] theorem State.readDone_urw (s : State) (n : Nat) (r : Bool) : (s.readDone n r).urw = s.urw := rfl
@[simp] theorem State.readDone_acc (s : State) (n : Nat) (r : Bool) : (s.readDone n r).acc = s.acc := rfl
@[simp] theorem State.readDone_t0 (s : State) (n : Nat) (r : Bool) : (s.readDone n r).t0 = s.t0 := rfl
@[simp] theorem State.readDone_ph (s : State) (n : Nat) (r : Bool) : (s.readDone n r).ph = .post := rfl
@[simp] theorem State.readDone_cnt (s : State) (n : Nat) (r : Bool) : (s.readDone n r).cnt = s.cnt := rfl
@[simp] theorem State.readDone_page (s : State) (n : Nat) (r : Bool) : (s.readDone n r).page = s.page := rfl
@[simp] theorem State.readDone_latch (s : State) (n : Nat) (r : Bool) : (s.readDone n r).latch = s.latch := rfl
@[simp] theorem State.readDone_events (s : State) (n : Nat) (r : Bool) : (s.readDone n r).events = s.events := rfl
@[simp] theorem State.readDone_rx (s : State) (n : Nat) (r : Bool) : (s.readDone n r).rx = s.rx := rfl
@[simp] theorem State.readDone_clock (s : State) (n : Nat) (r : Bool) : (s.readDone n r).clock = s.clock := rfl
@[simp] theorem State.readDone_script (s : State) (n : Nat) (r : Bool) : (s.readDone n r).script = s.script := rfl
@[simp] theorem State.readDone_hostReads (s : State) (n : Nat) (r : Bool) : (s.readDone n r).hostReads = s.hostReads := rfl
@[simp] theorem State.readDone_draws (s : State) (n : Nat) (r : Bool) : (s.readDone n r).draws = s.draws := rfl

/-! ### a read that timed out (41_transfer.md R145) -/

@[simp] theorem State.readTimedOut_params (s : State) : s.readTimedOut.params = s.params := rfl
@[simp] theorem State.readTimedOut_op (s : State) : s.readTimedOut.op = s.op := rfl
@[simp] theorem State.readTimedOut_busy (s : State) : s.readTimedOut.busy = s.busy := rfl
@[simp] theorem State.readTimedOut_done (s : State) : s.readTimedOut.done = s.done := rfl
@[simp] theorem State.readTimedOut_crcok (s : State) : s.readTimedOut.crcok = s.crcok := rfl
@[simp] theorem State.readTimedOut_held (s : State) : s.readTimedOut.held = true := rfl
@[simp] theorem State.readTimedOut_err (s : State) : s.readTimedOut.err = s.err := rfl
@[simp] theorem State.readTimedOut_rlen (s : State) : s.readTimedOut.rlen = 0 := rfl
@[simp] theorem State.readTimedOut_rb (s : State) : s.readTimedOut.rb = zeros8 := rfl
@[simp] theorem State.readTimedOut_raw (s : State) : s.readTimedOut.raw = s.raw := rfl
@[simp] theorem State.readTimedOut_val (s : State) : s.readTimedOut.val = s.val := rfl
@[simp] theorem State.readTimedOut_sn (s : State) : s.readTimedOut.sn = s.sn := rfl
@[simp] theorem State.readTimedOut_urd (s : State) : s.readTimedOut.urd = s.urd := rfl
@[simp] theorem State.readTimedOut_urw (s : State) : s.readTimedOut.urw = s.urw := rfl
@[simp] theorem State.readTimedOut_acc (s : State) : s.readTimedOut.acc = s.acc := rfl
@[simp] theorem State.readTimedOut_t0 (s : State) : s.readTimedOut.t0 = s.t0 := rfl
@[simp] theorem State.readTimedOut_ph (s : State) : s.readTimedOut.ph = .post := rfl
@[simp] theorem State.readTimedOut_cnt (s : State) : s.readTimedOut.cnt = s.cnt := rfl
@[simp] theorem State.readTimedOut_page (s : State) : s.readTimedOut.page = s.page := rfl
@[simp] theorem State.readTimedOut_latch (s : State) : s.readTimedOut.latch = s.latch := rfl
@[simp] theorem State.readTimedOut_events (s : State) : s.readTimedOut.events = s.events := rfl
@[simp] theorem State.readTimedOut_rx (s : State) : s.readTimedOut.rx = s.rx := rfl
@[simp] theorem State.readTimedOut_clock (s : State) : s.readTimedOut.clock = s.clock := rfl
@[simp] theorem State.readTimedOut_script (s : State) : s.readTimedOut.script = s.script := rfl
@[simp] theorem State.readTimedOut_hostReads (s : State) : s.readTimedOut.hostReads = s.hostReads := rfl
@[simp] theorem State.readTimedOut_draws (s : State) : s.readTimedOut.draws = s.draws := rfl

/-! ### a validation (40_crc.md R121) -/

@[simp] theorem State.validate_params (s : State) (d : List Byte) (e : Byte) : (s.validate d e).params = s.params := rfl
@[simp] theorem State.validate_op (s : State) (d : List Byte) (e : Byte) : (s.validate d e).op = s.op := rfl
@[simp] theorem State.validate_busy (s : State) (d : List Byte) (e : Byte) : (s.validate d e).busy = s.busy := rfl
@[simp] theorem State.validate_done (s : State) (d : List Byte) (e : Byte) : (s.validate d e).done = s.done := rfl
@[simp] theorem State.validate_crcok (s : State) (d : List Byte) (e : Byte) : (s.validate d e).crcok = validates d e := rfl
@[simp] theorem State.validate_held (s : State) (d : List Byte) (e : Byte) : (s.validate d e).held = s.held := rfl
@[simp] theorem State.validate_err (s : State) (d : List Byte) (e : Byte) : (s.validate d e).err = s.err := rfl
@[simp] theorem State.validate_rlen (s : State) (d : List Byte) (e : Byte) : (s.validate d e).rlen = s.rlen := rfl
@[simp] theorem State.validate_rb (s : State) (d : List Byte) (e : Byte) : (s.validate d e).rb = s.rb := rfl
@[simp] theorem State.validate_raw (s : State) (d : List Byte) (e : Byte) : (s.validate d e).raw = s.raw := rfl
@[simp] theorem State.validate_val (s : State) (d : List Byte) (e : Byte) : (s.validate d e).val = s.val := rfl
@[simp] theorem State.validate_sn (s : State) (d : List Byte) (e : Byte) : (s.validate d e).sn = s.sn := rfl
@[simp] theorem State.validate_urd (s : State) (d : List Byte) (e : Byte) : (s.validate d e).urd = s.urd := rfl
@[simp] theorem State.validate_urw (s : State) (d : List Byte) (e : Byte) : (s.validate d e).urw = s.urw := rfl
@[simp] theorem State.validate_acc (s : State) (d : List Byte) (e : Byte) : (s.validate d e).acc = crc d := rfl
@[simp] theorem State.validate_t0 (s : State) (d : List Byte) (e : Byte) : (s.validate d e).t0 = s.t0 := rfl
@[simp] theorem State.validate_ph (s : State) (d : List Byte) (e : Byte) : (s.validate d e).ph = s.ph := rfl
@[simp] theorem State.validate_cnt (s : State) (d : List Byte) (e : Byte) : (s.validate d e).cnt = s.cnt := rfl
@[simp] theorem State.validate_page (s : State) (d : List Byte) (e : Byte) : (s.validate d e).page = s.page := rfl
@[simp] theorem State.validate_latch (s : State) (d : List Byte) (e : Byte) : (s.validate d e).latch = s.latch := rfl
@[simp] theorem State.validate_events (s : State) (d : List Byte) (e : Byte) : (s.validate d e).events = s.events := rfl
@[simp] theorem State.validate_rx (s : State) (d : List Byte) (e : Byte) : (s.validate d e).rx = s.rx := rfl
@[simp] theorem State.validate_clock (s : State) (d : List Byte) (e : Byte) : (s.validate d e).clock = s.clock := rfl
@[simp] theorem State.validate_script (s : State) (d : List Byte) (e : Byte) : (s.validate d e).script = s.script := rfl
@[simp] theorem State.validate_hostReads (s : State) (d : List Byte) (e : Byte) : (s.validate d e).hostReads = s.hostReads := rfl
@[simp] theorem State.validate_draws (s : State) (d : List Byte) (e : Byte) : (s.validate d e).draws = s.draws := rfl

/-! ### RAW and VAL written (43_decoder.md R207) -/

@[simp] theorem State.setReading_params (s : State) (r : Half) (v : Int) : (s.setReading r v).params = s.params := rfl
@[simp] theorem State.setReading_op (s : State) (r : Half) (v : Int) : (s.setReading r v).op = s.op := rfl
@[simp] theorem State.setReading_busy (s : State) (r : Half) (v : Int) : (s.setReading r v).busy = s.busy := rfl
@[simp] theorem State.setReading_done (s : State) (r : Half) (v : Int) : (s.setReading r v).done = s.done := rfl
@[simp] theorem State.setReading_crcok (s : State) (r : Half) (v : Int) : (s.setReading r v).crcok = s.crcok := rfl
@[simp] theorem State.setReading_held (s : State) (r : Half) (v : Int) : (s.setReading r v).held = s.held := rfl
@[simp] theorem State.setReading_err (s : State) (r : Half) (v : Int) : (s.setReading r v).err = s.err := rfl
@[simp] theorem State.setReading_rlen (s : State) (r : Half) (v : Int) : (s.setReading r v).rlen = s.rlen := rfl
@[simp] theorem State.setReading_rb (s : State) (r : Half) (v : Int) : (s.setReading r v).rb = s.rb := rfl
@[simp] theorem State.setReading_raw (s : State) (r : Half) (v : Int) : (s.setReading r v).raw = r := rfl
@[simp] theorem State.setReading_val (s : State) (r : Half) (v : Int) : (s.setReading r v).val = s16 v := rfl
@[simp] theorem State.setReading_sn (s : State) (r : Half) (v : Int) : (s.setReading r v).sn = s.sn := rfl
@[simp] theorem State.setReading_urd (s : State) (r : Half) (v : Int) : (s.setReading r v).urd = s.urd := rfl
@[simp] theorem State.setReading_urw (s : State) (r : Half) (v : Int) : (s.setReading r v).urw = s.urw := rfl
@[simp] theorem State.setReading_acc (s : State) (r : Half) (v : Int) : (s.setReading r v).acc = s.acc := rfl
@[simp] theorem State.setReading_t0 (s : State) (r : Half) (v : Int) : (s.setReading r v).t0 = s.t0 := rfl
@[simp] theorem State.setReading_ph (s : State) (r : Half) (v : Int) : (s.setReading r v).ph = s.ph := rfl
@[simp] theorem State.setReading_cnt (s : State) (r : Half) (v : Int) : (s.setReading r v).cnt = s.cnt := rfl
@[simp] theorem State.setReading_page (s : State) (r : Half) (v : Int) : (s.setReading r v).page = s.page := rfl
@[simp] theorem State.setReading_latch (s : State) (r : Half) (v : Int) : (s.setReading r v).latch = s.latch := rfl
@[simp] theorem State.setReading_events (s : State) (r : Half) (v : Int) : (s.setReading r v).events = s.events := rfl
@[simp] theorem State.setReading_rx (s : State) (r : Half) (v : Int) : (s.setReading r v).rx = s.rx := rfl
@[simp] theorem State.setReading_clock (s : State) (r : Half) (v : Int) : (s.setReading r v).clock = s.clock := rfl
@[simp] theorem State.setReading_script (s : State) (r : Half) (v : Int) : (s.setReading r v).script = s.script := rfl
@[simp] theorem State.setReading_hostReads (s : State) (r : Half) (v : Int) : (s.setReading r v).hostReads = s.hostReads := rfl
@[simp] theorem State.setReading_draws (s : State) (r : Half) (v : Int) : (s.setReading r v).draws = s.draws := rfl

/-! ### RAW and VAL cleared (42_protocol.md R172) -/

@[simp] theorem State.clearReading_params (s : State) : s.clearReading.params = s.params := rfl
@[simp] theorem State.clearReading_op (s : State) : s.clearReading.op = s.op := rfl
@[simp] theorem State.clearReading_busy (s : State) : s.clearReading.busy = s.busy := rfl
@[simp] theorem State.clearReading_done (s : State) : s.clearReading.done = s.done := rfl
@[simp] theorem State.clearReading_crcok (s : State) : s.clearReading.crcok = s.crcok := rfl
@[simp] theorem State.clearReading_held (s : State) : s.clearReading.held = s.held := rfl
@[simp] theorem State.clearReading_err (s : State) : s.clearReading.err = s.err := rfl
@[simp] theorem State.clearReading_rlen (s : State) : s.clearReading.rlen = s.rlen := rfl
@[simp] theorem State.clearReading_rb (s : State) : s.clearReading.rb = s.rb := rfl
@[simp] theorem State.clearReading_raw (s : State) : s.clearReading.raw = 0#16 := rfl
@[simp] theorem State.clearReading_val (s : State) : s.clearReading.val = 0#16 := rfl
@[simp] theorem State.clearReading_sn (s : State) : s.clearReading.sn = s.sn := rfl
@[simp] theorem State.clearReading_urd (s : State) : s.clearReading.urd = s.urd := rfl
@[simp] theorem State.clearReading_urw (s : State) : s.clearReading.urw = s.urw := rfl
@[simp] theorem State.clearReading_acc (s : State) : s.clearReading.acc = s.acc := rfl
@[simp] theorem State.clearReading_t0 (s : State) : s.clearReading.t0 = s.t0 := rfl
@[simp] theorem State.clearReading_ph (s : State) : s.clearReading.ph = s.ph := rfl
@[simp] theorem State.clearReading_cnt (s : State) : s.clearReading.cnt = s.cnt := rfl
@[simp] theorem State.clearReading_page (s : State) : s.clearReading.page = s.page := rfl
@[simp] theorem State.clearReading_latch (s : State) : s.clearReading.latch = s.latch := rfl
@[simp] theorem State.clearReading_events (s : State) : s.clearReading.events = s.events := rfl
@[simp] theorem State.clearReading_rx (s : State) : s.clearReading.rx = s.rx := rfl
@[simp] theorem State.clearReading_clock (s : State) : s.clearReading.clock = s.clock := rfl
@[simp] theorem State.clearReading_script (s : State) : s.clearReading.script = s.script := rfl
@[simp] theorem State.clearReading_hostReads (s : State) : s.clearReading.hostReads = s.hostReads := rfl
@[simp] theorem State.clearReading_draws (s : State) : s.clearReading.draws = s.draws := rfl

/-! ### SN cleared, at page A (42_protocol.md R177) -/

@[simp] theorem State.clearSerial_params (s : State) : s.clearSerial.params = s.params := rfl
@[simp] theorem State.clearSerial_op (s : State) : s.clearSerial.op = s.op := rfl
@[simp] theorem State.clearSerial_busy (s : State) : s.clearSerial.busy = s.busy := rfl
@[simp] theorem State.clearSerial_done (s : State) : s.clearSerial.done = s.done := rfl
@[simp] theorem State.clearSerial_crcok (s : State) : s.clearSerial.crcok = s.crcok := rfl
@[simp] theorem State.clearSerial_held (s : State) : s.clearSerial.held = s.held := rfl
@[simp] theorem State.clearSerial_err (s : State) : s.clearSerial.err = s.err := rfl
@[simp] theorem State.clearSerial_rlen (s : State) : s.clearSerial.rlen = s.rlen := rfl
@[simp] theorem State.clearSerial_rb (s : State) : s.clearSerial.rb = s.rb := rfl
@[simp] theorem State.clearSerial_raw (s : State) : s.clearSerial.raw = s.raw := rfl
@[simp] theorem State.clearSerial_val (s : State) : s.clearSerial.val = s.val := rfl
@[simp] theorem State.clearSerial_sn (s : State) : s.clearSerial.sn = zeros8 := rfl
@[simp] theorem State.clearSerial_urd (s : State) : s.clearSerial.urd = s.urd := rfl
@[simp] theorem State.clearSerial_urw (s : State) : s.clearSerial.urw = s.urw := rfl
@[simp] theorem State.clearSerial_acc (s : State) : s.clearSerial.acc = s.acc := rfl
@[simp] theorem State.clearSerial_t0 (s : State) : s.clearSerial.t0 = s.t0 := rfl
@[simp] theorem State.clearSerial_ph (s : State) : s.clearSerial.ph = s.ph := rfl
@[simp] theorem State.clearSerial_cnt (s : State) : s.clearSerial.cnt = s.cnt := rfl
@[simp] theorem State.clearSerial_page (s : State) : s.clearSerial.page = .a := rfl
@[simp] theorem State.clearSerial_latch (s : State) : s.clearSerial.latch = s.latch := rfl
@[simp] theorem State.clearSerial_events (s : State) : s.clearSerial.events = s.events := rfl
@[simp] theorem State.clearSerial_rx (s : State) : s.clearSerial.rx = s.rx := rfl
@[simp] theorem State.clearSerial_clock (s : State) : s.clearSerial.clock = s.clock := rfl
@[simp] theorem State.clearSerial_script (s : State) : s.clearSerial.script = s.script := rfl
@[simp] theorem State.clearSerial_hostReads (s : State) : s.clearSerial.hostReads = s.hostReads := rfl
@[simp] theorem State.clearSerial_draws (s : State) : s.clearSerial.draws = s.draws := rfl

/-! ### the latches of page A (42_protocol.md R177) -/

@[simp] theorem State.latchPageA_params (s : State) : s.latchPageA.params = s.params := rfl
@[simp] theorem State.latchPageA_op (s : State) : s.latchPageA.op = s.op := rfl
@[simp] theorem State.latchPageA_busy (s : State) : s.latchPageA.busy = s.busy := rfl
@[simp] theorem State.latchPageA_done (s : State) : s.latchPageA.done = s.done := rfl
@[simp] theorem State.latchPageA_crcok (s : State) : s.latchPageA.crcok = s.crcok := rfl
@[simp] theorem State.latchPageA_held (s : State) : s.latchPageA.held = s.held := rfl
@[simp] theorem State.latchPageA_err (s : State) : s.latchPageA.err = s.err := rfl
@[simp] theorem State.latchPageA_rlen (s : State) : s.latchPageA.rlen = s.rlen := rfl
@[simp] theorem State.latchPageA_rb (s : State) : s.latchPageA.rb = s.rb := rfl
@[simp] theorem State.latchPageA_raw (s : State) : s.latchPageA.raw = s.raw := rfl
@[simp] theorem State.latchPageA_val (s : State) : s.latchPageA.val = s.val := rfl
@[simp] theorem State.latchPageA_sn (s : State) : s.latchPageA.sn = s.sn := rfl
@[simp] theorem State.latchPageA_urd (s : State) : s.latchPageA.urd = s.urd := rfl
@[simp] theorem State.latchPageA_urw (s : State) : s.latchPageA.urw = s.urw := rfl
@[simp] theorem State.latchPageA_acc (s : State) : s.latchPageA.acc = s.acc := rfl
@[simp] theorem State.latchPageA_t0 (s : State) : s.latchPageA.t0 = s.t0 := rfl
@[simp] theorem State.latchPageA_ph (s : State) : s.latchPageA.ph = s.ph := rfl
@[simp] theorem State.latchPageA_cnt (s : State) : s.latchPageA.cnt = s.cnt := rfl
@[simp] theorem State.latchPageA_page (s : State) : s.latchPageA.page = .b := rfl
@[simp] theorem State.latchPageA_latch (s : State) : s.latchPageA.latch = pageAData s.rb := rfl
@[simp] theorem State.latchPageA_events (s : State) : s.latchPageA.events = s.events := rfl
@[simp] theorem State.latchPageA_rx (s : State) : s.latchPageA.rx = s.rx := rfl
@[simp] theorem State.latchPageA_clock (s : State) : s.latchPageA.clock = s.clock := rfl
@[simp] theorem State.latchPageA_script (s : State) : s.latchPageA.script = s.script := rfl
@[simp] theorem State.latchPageA_hostReads (s : State) : s.latchPageA.hostReads = s.hostReads := rfl
@[simp] theorem State.latchPageA_draws (s : State) : s.latchPageA.draws = s.draws := rfl

/-! ### reset (70_reset_and_hazards.md R260) -/

@[simp] theorem State.hardReset_params (s : State) : s.hardReset.params = s.params := rfl
@[simp] theorem State.hardReset_op (s : State) : s.hardReset.op = 0#32 := rfl
@[simp] theorem State.hardReset_busy (s : State) : s.hardReset.busy = false := rfl
@[simp] theorem State.hardReset_done (s : State) : s.hardReset.done = false := rfl
@[simp] theorem State.hardReset_crcok (s : State) : s.hardReset.crcok = false := rfl
@[simp] theorem State.hardReset_held (s : State) : s.hardReset.held = false := rfl
@[simp] theorem State.hardReset_err (s : State) : s.hardReset.err = .none := rfl
@[simp] theorem State.hardReset_rlen (s : State) : s.hardReset.rlen = 0 := rfl
@[simp] theorem State.hardReset_rb (s : State) : s.hardReset.rb = zeros8 := rfl
@[simp] theorem State.hardReset_raw (s : State) : s.hardReset.raw = 0#16 := rfl
@[simp] theorem State.hardReset_val (s : State) : s.hardReset.val = 0#16 := rfl
@[simp] theorem State.hardReset_sn (s : State) : s.hardReset.sn = zeros8 := rfl
@[simp] theorem State.hardReset_urd (s : State) : s.hardReset.urd = 0#8 := rfl
@[simp] theorem State.hardReset_urw (s : State) : s.hardReset.urw = 0#8 := rfl
@[simp] theorem State.hardReset_acc (s : State) : s.hardReset.acc = 0#8 := rfl
@[simp] theorem State.hardReset_t0 (s : State) : s.hardReset.t0 = 0 := rfl
@[simp] theorem State.hardReset_ph (s : State) : s.hardReset.ph = .idle := rfl
@[simp] theorem State.hardReset_cnt (s : State) : s.hardReset.cnt = 0 := rfl
@[simp] theorem State.hardReset_page (s : State) : s.hardReset.page = .a := rfl
@[simp] theorem State.hardReset_latch (s : State) : s.hardReset.latch = Vector.replicate 4 0#8 := rfl
@[simp] theorem State.hardReset_events (s : State) : s.hardReset.events = s.events := rfl
@[simp] theorem State.hardReset_rx (s : State) : s.hardReset.rx = s.rx := rfl
@[simp] theorem State.hardReset_clock (s : State) : s.hardReset.clock = s.clock := rfl
@[simp] theorem State.hardReset_script (s : State) : s.hardReset.script = s.script := rfl
@[simp] theorem State.hardReset_hostReads (s : State) : s.hardReset.hostReads = s.hostReads := rfl
@[simp] theorem State.hardReset_draws (s : State) : s.hardReset.draws = s.draws := rfl

/-! ### reset inside an operation (70_reset_and_hazards.md R260; log 13) -/

@[simp] theorem State.cutShort_params (s s' : State) (k : Nat) : (s.cutShort k s').params = s.hardReset.params := rfl
@[simp] theorem State.cutShort_op (s s' : State) (k : Nat) : (s.cutShort k s').op = s.hardReset.op := rfl
@[simp] theorem State.cutShort_busy (s s' : State) (k : Nat) : (s.cutShort k s').busy = s.hardReset.busy := rfl
@[simp] theorem State.cutShort_done (s s' : State) (k : Nat) : (s.cutShort k s').done = s.hardReset.done := rfl
@[simp] theorem State.cutShort_crcok (s s' : State) (k : Nat) : (s.cutShort k s').crcok = s.hardReset.crcok := rfl
@[simp] theorem State.cutShort_held (s s' : State) (k : Nat) : (s.cutShort k s').held = s.hardReset.held := rfl
@[simp] theorem State.cutShort_err (s s' : State) (k : Nat) : (s.cutShort k s').err = s.hardReset.err := rfl
@[simp] theorem State.cutShort_rlen (s s' : State) (k : Nat) : (s.cutShort k s').rlen = s.hardReset.rlen := rfl
@[simp] theorem State.cutShort_rb (s s' : State) (k : Nat) : (s.cutShort k s').rb = s.hardReset.rb := rfl
@[simp] theorem State.cutShort_raw (s s' : State) (k : Nat) : (s.cutShort k s').raw = s.hardReset.raw := rfl
@[simp] theorem State.cutShort_val (s s' : State) (k : Nat) : (s.cutShort k s').val = s.hardReset.val := rfl
@[simp] theorem State.cutShort_sn (s s' : State) (k : Nat) : (s.cutShort k s').sn = s.hardReset.sn := rfl
@[simp] theorem State.cutShort_urd (s s' : State) (k : Nat) : (s.cutShort k s').urd = s.hardReset.urd := rfl
@[simp] theorem State.cutShort_urw (s s' : State) (k : Nat) : (s.cutShort k s').urw = s.hardReset.urw := rfl
@[simp] theorem State.cutShort_acc (s s' : State) (k : Nat) : (s.cutShort k s').acc = s.hardReset.acc := rfl
@[simp] theorem State.cutShort_t0 (s s' : State) (k : Nat) : (s.cutShort k s').t0 = s.hardReset.t0 := rfl
@[simp] theorem State.cutShort_ph (s s' : State) (k : Nat) : (s.cutShort k s').ph = s.hardReset.ph := rfl
@[simp] theorem State.cutShort_cnt (s s' : State) (k : Nat) : (s.cutShort k s').cnt = s.hardReset.cnt := rfl
@[simp] theorem State.cutShort_page (s s' : State) (k : Nat) : (s.cutShort k s').page = s.hardReset.page := rfl
@[simp] theorem State.cutShort_latch (s s' : State) (k : Nat) : (s.cutShort k s').latch = s.hardReset.latch := rfl
@[simp] theorem State.cutShort_script (s s' : State) (k : Nat) : (s.cutShort k s').script = s.hardReset.script := rfl
@[simp] theorem State.cutShort_hostReads (s s' : State) (k : Nat) : (s.cutShort k s').hostReads = s.hardReset.hostReads := rfl
@[simp] theorem State.cutShort_draws (s s' : State) (k : Nat) : (s.cutShort k s').draws = s.hardReset.draws := rfl
@[simp] theorem State.cutShort_events (s s' : State) (k : Nat) :
    (s.cutShort k s').events = s.events ++ (s'.events.drop s.events.length).take k := rfl
@[simp] theorem State.cutShort_rx (s s' : State) (k : Nat) :
    (s.cutShort k s').rx = s.rx.drop (((s'.events.drop s.events.length).take k).countP Event.isAv) := rfl
@[simp] theorem State.cutShort_clock (s s' : State) (k : Nat) :
    (s.cutShort k s').clock = s.clock.drop (((s'.events.drop s.events.length).take k).countP Event.isNow) := rfl

/-! ### a host read (20_memory.md R63) -/

@[simp] theorem State.hostRead_params (s : State) (off : Nat) : (s.hostRead off).params = s.params := rfl
@[simp] theorem State.hostRead_op (s : State) (off : Nat) : (s.hostRead off).op = s.op := rfl
@[simp] theorem State.hostRead_busy (s : State) (off : Nat) : (s.hostRead off).busy = s.busy := rfl
@[simp] theorem State.hostRead_done (s : State) (off : Nat) : (s.hostRead off).done = s.done := rfl
@[simp] theorem State.hostRead_crcok (s : State) (off : Nat) : (s.hostRead off).crcok = s.crcok := rfl
@[simp] theorem State.hostRead_held (s : State) (off : Nat) : (s.hostRead off).held = s.held := rfl
@[simp] theorem State.hostRead_err (s : State) (off : Nat) : (s.hostRead off).err = s.err := rfl
@[simp] theorem State.hostRead_rlen (s : State) (off : Nat) : (s.hostRead off).rlen = s.rlen := rfl
@[simp] theorem State.hostRead_rb (s : State) (off : Nat) : (s.hostRead off).rb = s.rb := rfl
@[simp] theorem State.hostRead_raw (s : State) (off : Nat) : (s.hostRead off).raw = s.raw := rfl
@[simp] theorem State.hostRead_val (s : State) (off : Nat) : (s.hostRead off).val = s.val := rfl
@[simp] theorem State.hostRead_sn (s : State) (off : Nat) : (s.hostRead off).sn = s.sn := rfl
@[simp] theorem State.hostRead_urd (s : State) (off : Nat) : (s.hostRead off).urd = s.urd := rfl
@[simp] theorem State.hostRead_urw (s : State) (off : Nat) : (s.hostRead off).urw = s.urw := rfl
@[simp] theorem State.hostRead_acc (s : State) (off : Nat) : (s.hostRead off).acc = s.acc := rfl
@[simp] theorem State.hostRead_t0 (s : State) (off : Nat) : (s.hostRead off).t0 = s.t0 := rfl
@[simp] theorem State.hostRead_ph (s : State) (off : Nat) : (s.hostRead off).ph = s.ph := rfl
@[simp] theorem State.hostRead_cnt (s : State) (off : Nat) : (s.hostRead off).cnt = s.cnt := rfl
@[simp] theorem State.hostRead_page (s : State) (off : Nat) : (s.hostRead off).page = s.page := rfl
@[simp] theorem State.hostRead_latch (s : State) (off : Nat) : (s.hostRead off).latch = s.latch := rfl
@[simp] theorem State.hostRead_events (s : State) (off : Nat) : (s.hostRead off).events = s.events := rfl
@[simp] theorem State.hostRead_rx (s : State) (off : Nat) : (s.hostRead off).rx = s.rx := rfl
@[simp] theorem State.hostRead_clock (s : State) (off : Nat) : (s.hostRead off).clock = s.clock := rfl
@[simp] theorem State.hostRead_script (s : State) (off : Nat) : (s.hostRead off).script = s.script := rfl
@[simp] theorem State.hostRead_hostReads (s : State) (off : Nat) : (s.hostRead off).hostReads = s.hostReads ++ [(off, s.readValue off)] := rfl
@[simp] theorem State.hostRead_draws (s : State) (off : Nat) : (s.hostRead off).draws = if s.busy then s.draws + 1 else s.draws := rfl

/-! ### further answers -/

@[simp] theorem State.withAnswers_params (s : State) (l : List (Option Byte)) (ts : List Nat) : (s.withAnswers l ts).params = s.params := rfl
@[simp] theorem State.withAnswers_op (s : State) (l : List (Option Byte)) (ts : List Nat) : (s.withAnswers l ts).op = s.op := rfl
@[simp] theorem State.withAnswers_busy (s : State) (l : List (Option Byte)) (ts : List Nat) : (s.withAnswers l ts).busy = s.busy := rfl
@[simp] theorem State.withAnswers_done (s : State) (l : List (Option Byte)) (ts : List Nat) : (s.withAnswers l ts).done = s.done := rfl
@[simp] theorem State.withAnswers_crcok (s : State) (l : List (Option Byte)) (ts : List Nat) : (s.withAnswers l ts).crcok = s.crcok := rfl
@[simp] theorem State.withAnswers_held (s : State) (l : List (Option Byte)) (ts : List Nat) : (s.withAnswers l ts).held = s.held := rfl
@[simp] theorem State.withAnswers_err (s : State) (l : List (Option Byte)) (ts : List Nat) : (s.withAnswers l ts).err = s.err := rfl
@[simp] theorem State.withAnswers_rlen (s : State) (l : List (Option Byte)) (ts : List Nat) : (s.withAnswers l ts).rlen = s.rlen := rfl
@[simp] theorem State.withAnswers_rb (s : State) (l : List (Option Byte)) (ts : List Nat) : (s.withAnswers l ts).rb = s.rb := rfl
@[simp] theorem State.withAnswers_raw (s : State) (l : List (Option Byte)) (ts : List Nat) : (s.withAnswers l ts).raw = s.raw := rfl
@[simp] theorem State.withAnswers_val (s : State) (l : List (Option Byte)) (ts : List Nat) : (s.withAnswers l ts).val = s.val := rfl
@[simp] theorem State.withAnswers_sn (s : State) (l : List (Option Byte)) (ts : List Nat) : (s.withAnswers l ts).sn = s.sn := rfl
@[simp] theorem State.withAnswers_urd (s : State) (l : List (Option Byte)) (ts : List Nat) : (s.withAnswers l ts).urd = s.urd := rfl
@[simp] theorem State.withAnswers_urw (s : State) (l : List (Option Byte)) (ts : List Nat) : (s.withAnswers l ts).urw = s.urw := rfl
@[simp] theorem State.withAnswers_acc (s : State) (l : List (Option Byte)) (ts : List Nat) : (s.withAnswers l ts).acc = s.acc := rfl
@[simp] theorem State.withAnswers_t0 (s : State) (l : List (Option Byte)) (ts : List Nat) : (s.withAnswers l ts).t0 = s.t0 := rfl
@[simp] theorem State.withAnswers_ph (s : State) (l : List (Option Byte)) (ts : List Nat) : (s.withAnswers l ts).ph = s.ph := rfl
@[simp] theorem State.withAnswers_cnt (s : State) (l : List (Option Byte)) (ts : List Nat) : (s.withAnswers l ts).cnt = s.cnt := rfl
@[simp] theorem State.withAnswers_page (s : State) (l : List (Option Byte)) (ts : List Nat) : (s.withAnswers l ts).page = s.page := rfl
@[simp] theorem State.withAnswers_latch (s : State) (l : List (Option Byte)) (ts : List Nat) : (s.withAnswers l ts).latch = s.latch := rfl
@[simp] theorem State.withAnswers_events (s : State) (l : List (Option Byte)) (ts : List Nat) : (s.withAnswers l ts).events = s.events := rfl
@[simp] theorem State.withAnswers_rx (s : State) (l : List (Option Byte)) (ts : List Nat) : (s.withAnswers l ts).rx = s.rx ++ l := rfl
@[simp] theorem State.withAnswers_clock (s : State) (l : List (Option Byte)) (ts : List Nat) : (s.withAnswers l ts).clock = s.clock ++ ts := rfl
@[simp] theorem State.withAnswers_script (s : State) (l : List (Option Byte)) (ts : List Nat) : (s.withAnswers l ts).script = s.script := rfl
@[simp] theorem State.withAnswers_hostReads (s : State) (l : List (Option Byte)) (ts : List Nat) : (s.withAnswers l ts).hostReads = s.hostReads := rfl
@[simp] theorem State.withAnswers_draws (s : State) (l : List (Option Byte)) (ts : List Nat) : (s.withAnswers l ts).draws = s.draws := rfl

/-! ### free answers (log 5) -/

@[simp] theorem State.withFreeAnswers_params (s : State) : s.withFreeAnswers.params = s.params := rfl
@[simp] theorem State.withFreeAnswers_op (s : State) : s.withFreeAnswers.op = s.op := rfl
@[simp] theorem State.withFreeAnswers_busy (s : State) : s.withFreeAnswers.busy = s.busy := rfl
@[simp] theorem State.withFreeAnswers_done (s : State) : s.withFreeAnswers.done = s.done := rfl
@[simp] theorem State.withFreeAnswers_crcok (s : State) : s.withFreeAnswers.crcok = s.crcok := rfl
@[simp] theorem State.withFreeAnswers_held (s : State) : s.withFreeAnswers.held = s.held := rfl
@[simp] theorem State.withFreeAnswers_err (s : State) : s.withFreeAnswers.err = s.err := rfl
@[simp] theorem State.withFreeAnswers_rlen (s : State) : s.withFreeAnswers.rlen = s.rlen := rfl
@[simp] theorem State.withFreeAnswers_rb (s : State) : s.withFreeAnswers.rb = s.rb := rfl
@[simp] theorem State.withFreeAnswers_raw (s : State) : s.withFreeAnswers.raw = s.raw := rfl
@[simp] theorem State.withFreeAnswers_val (s : State) : s.withFreeAnswers.val = s.val := rfl
@[simp] theorem State.withFreeAnswers_sn (s : State) : s.withFreeAnswers.sn = s.sn := rfl
@[simp] theorem State.withFreeAnswers_urd (s : State) : s.withFreeAnswers.urd = s.urd := rfl
@[simp] theorem State.withFreeAnswers_urw (s : State) : s.withFreeAnswers.urw = s.urw := rfl
@[simp] theorem State.withFreeAnswers_acc (s : State) : s.withFreeAnswers.acc = s.acc := rfl
@[simp] theorem State.withFreeAnswers_t0 (s : State) : s.withFreeAnswers.t0 = s.t0 := rfl
@[simp] theorem State.withFreeAnswers_ph (s : State) : s.withFreeAnswers.ph = s.ph := rfl
@[simp] theorem State.withFreeAnswers_cnt (s : State) : s.withFreeAnswers.cnt = s.cnt := rfl
@[simp] theorem State.withFreeAnswers_page (s : State) : s.withFreeAnswers.page = s.page := rfl
@[simp] theorem State.withFreeAnswers_latch (s : State) : s.withFreeAnswers.latch = s.latch := rfl
@[simp] theorem State.withFreeAnswers_events (s : State) : s.withFreeAnswers.events = s.events := rfl
@[simp] theorem State.withFreeAnswers_rx (s : State) : s.withFreeAnswers.rx = if s.rx.isEmpty then [Config.freeRx s.draws] else s.rx := rfl
@[simp] theorem State.withFreeAnswers_clock (s : State) : s.withFreeAnswers.clock = if s.clock.isEmpty then [Config.freeClock s.draws] else s.clock := rfl
@[simp] theorem State.withFreeAnswers_script (s : State) : s.withFreeAnswers.script = s.script := rfl
@[simp] theorem State.withFreeAnswers_hostReads (s : State) : s.withFreeAnswers.hostReads = s.hostReads := rfl
@[simp] theorem State.withFreeAnswers_draws (s : State) : s.withFreeAnswers.draws = s.draws + 1 := rfl

/-! ### a word placed as the next input -/

@[simp] theorem State.withWordNext_params (s : State) (w : Word) : (s.withWordNext w).params = s.params := rfl
@[simp] theorem State.withWordNext_op (s : State) (w : Word) : (s.withWordNext w).op = s.op := rfl
@[simp] theorem State.withWordNext_busy (s : State) (w : Word) : (s.withWordNext w).busy = false := rfl
@[simp] theorem State.withWordNext_done (s : State) (w : Word) : (s.withWordNext w).done = s.done := rfl
@[simp] theorem State.withWordNext_crcok (s : State) (w : Word) : (s.withWordNext w).crcok = s.crcok := rfl
@[simp] theorem State.withWordNext_held (s : State) (w : Word) : (s.withWordNext w).held = s.held := rfl
@[simp] theorem State.withWordNext_err (s : State) (w : Word) : (s.withWordNext w).err = s.err := rfl
@[simp] theorem State.withWordNext_rlen (s : State) (w : Word) : (s.withWordNext w).rlen = s.rlen := rfl
@[simp] theorem State.withWordNext_rb (s : State) (w : Word) : (s.withWordNext w).rb = s.rb := rfl
@[simp] theorem State.withWordNext_raw (s : State) (w : Word) : (s.withWordNext w).raw = s.raw := rfl
@[simp] theorem State.withWordNext_val (s : State) (w : Word) : (s.withWordNext w).val = s.val := rfl
@[simp] theorem State.withWordNext_sn (s : State) (w : Word) : (s.withWordNext w).sn = s.sn := rfl
@[simp] theorem State.withWordNext_urd (s : State) (w : Word) : (s.withWordNext w).urd = s.urd := rfl
@[simp] theorem State.withWordNext_urw (s : State) (w : Word) : (s.withWordNext w).urw = s.urw := rfl
@[simp] theorem State.withWordNext_acc (s : State) (w : Word) : (s.withWordNext w).acc = s.acc := rfl
@[simp] theorem State.withWordNext_t0 (s : State) (w : Word) : (s.withWordNext w).t0 = s.t0 := rfl
@[simp] theorem State.withWordNext_ph (s : State) (w : Word) : (s.withWordNext w).ph = .idle := rfl
@[simp] theorem State.withWordNext_cnt (s : State) (w : Word) : (s.withWordNext w).cnt = s.cnt := rfl
@[simp] theorem State.withWordNext_page (s : State) (w : Word) : (s.withWordNext w).page = s.page := rfl
@[simp] theorem State.withWordNext_latch (s : State) (w : Word) : (s.withWordNext w).latch = s.latch := rfl
@[simp] theorem State.withWordNext_events (s : State) (w : Word) : (s.withWordNext w).events = s.events := rfl
@[simp] theorem State.withWordNext_rx (s : State) (w : Word) : (s.withWordNext w).rx = s.rx := rfl
@[simp] theorem State.withWordNext_clock (s : State) (w : Word) : (s.withWordNext w).clock = s.clock := rfl
@[simp] theorem State.withWordNext_script (s : State) (w : Word) : (s.withWordNext w).script = .write 0 4 w :: s.script := rfl
@[simp] theorem State.withWordNext_hostReads (s : State) (w : Word) : (s.withWordNext w).hostReads = s.hostReads := rfl
@[simp] theorem State.withWordNext_draws (s : State) (w : Word) : (s.withWordNext w).draws = s.draws := rfl

end Sys2Proof.Machine
end

