-- ==== Sys2Proof/Laws/Transfer.lean ====
section
/-! SUPPORT. What the transfer engine can do, said once: its frame, its two exits, and where it waits (41_transfer.md R140 to R147). -/

namespace Sys2Proof.Machine

/-- The state in which a transfer stands. -/
def Transfer.state : Transfer → State
  | .ok s => s
  | .timeout s => s
  | .pending s => s

@[simp] theorem Transfer.state_ok (s : State) : (Transfer.ok s).state = s := rfl
@[simp] theorem Transfer.state_timeout (s : State) : (Transfer.timeout s).state = s := rfl
@[simp] theorem Transfer.state_pending (s : State) : (Transfer.pending s).state = s := rfl

/-- `t` differs from `s` in nothing but HELD, RLEN, RB, T0, PH, the byte count, the events, and the answers left. -/
structure TransferKeeps (s t : State) : Prop where
  params : t.params = s.params
  op : t.op = s.op
  busy : t.busy = s.busy
  done : t.done = s.done
  crcok : t.crcok = s.crcok
  err : t.err = s.err
  raw : t.raw = s.raw
  val : t.val = s.val
  sn : t.sn = s.sn
  urd : t.urd = s.urd
  urw : t.urw = s.urw
  acc : t.acc = s.acc
  page : t.page = s.page
  latch : t.latch = s.latch
  script : t.script = s.script
  hostReads : t.hostReads = s.hostReads
  draws : t.draws = s.draws

theorem TransferKeeps.refl (s : State) : TransferKeeps s s := by constructor <;> rfl

theorem TransferKeeps.trans {s t u : State} (h : TransferKeeps s t) (h' : TransferKeeps t u) : TransferKeeps s u := by
  constructor
  · exact h'.params.trans h.params
  · exact h'.op.trans h.op
  · exact h'.busy.trans h.busy
  · exact h'.done.trans h.done
  · exact h'.crcok.trans h.crcok
  · exact h'.err.trans h.err
  · exact h'.raw.trans h.raw
  · exact h'.val.trans h.val
  · exact h'.sn.trans h.sn
  · exact h'.urd.trans h.urd
  · exact h'.urw.trans h.urw
  · exact h'.acc.trans h.acc
  · exact h'.page.trans h.page
  · exact h'.latch.trans h.latch
  · exact h'.script.trans h.script
  · exact h'.hostReads.trans h.hostReads
  · exact h'.draws.trans h.draws

theorem beginRead_keeps (s : State) (cmd : List Byte) (n : Nat) (rel : Bool) : TransferKeeps s (s.beginRead cmd n rel) := by
  constructor <;> rfl

theorem sampleStart_keeps (s : State) (t : Nat) (ts : List Nat) : TransferKeeps s (s.sampleStart t ts) := by
  constructor <;> rfl

theorem takeByte_keeps (s : State) (b : Byte) (l : List (Option Byte)) : TransferKeeps s (s.takeByte b l) := by
  constructor <;> rfl

theorem pollEmpty_keeps (s : State) (l : List (Option Byte)) (t : Nat) (ts : List Nat) :
    TransferKeeps s (s.pollEmpty l t ts) := by
  constructor <;> rfl

theorem readDone_keeps (s : State) (n : Nat) (rel : Bool) : TransferKeeps s (s.readDone n rel) := by
  constructor <;> rfl

theorem readTimedOut_keeps (s : State) : TransferKeeps s s.readTimedOut := by
  constructor <;> rfl

/-! ### The poll loop, one answer at a time -/

theorem pollLoop_done (n : Nat) (rel : Bool) (l : List (Option Byte)) (s : State) (h : s.cnt = n) :
    pollLoop n rel l s = .ok (s.readDone n rel) := by
  cases l <;> simp [pollLoop, h]

theorem pollLoop_nil (n : Nat) (rel : Bool) (s : State) (h : s.cnt ≠ n) : pollLoop n rel [] s = .pending s := by
  simp [pollLoop, h]

theorem pollLoop_byte (n : Nat) (rel : Bool) (b : Byte) (l : List (Option Byte)) (s : State) (h : s.cnt ≠ n) :
    pollLoop n rel (some b :: l) s = pollLoop n rel l (s.takeByte b l) := by
  simp [pollLoop, h]

theorem pollLoop_stalled (n : Nat) (rel : Bool) (l : List (Option Byte)) (s : State) (h : s.cnt ≠ n) (hc : s.clock = []) :
    pollLoop n rel (none :: l) s = .pending s := by
  simp [pollLoop, h, hc]

theorem pollLoop_early (n : Nat) (rel : Bool) (l : List (Option Byte)) (s : State) (t : Nat) (ts : List Nat) (h : s.cnt ≠ n)
    (hc : s.clock = t :: ts) (he : timedOut s.params.w s.t0 (s.sampled t) = false) :
    pollLoop n rel (none :: l) s = pollLoop n rel l (s.pollEmpty l t ts) := by
  simp [pollLoop, h, hc, he]

theorem pollLoop_late (n : Nat) (rel : Bool) (l : List (Option Byte)) (s : State) (t : Nat) (ts : List Nat) (h : s.cnt ≠ n)
    (hc : s.clock = t :: ts) (he : timedOut s.params.w s.t0 (s.sampled t) = true) :
    pollLoop n rel (none :: l) s = .timeout (s.pollEmpty l t ts).readTimedOut := by
  simp [pollLoop, h, hc, he]

/-- Induction along the poll loop: what holds of the state at each of its exits and is carried back over each answer, holds. -/
theorem pollLoop_induction {n : Nat} {rel : Bool} {motive : State → Transfer → Prop}
    (done : ∀ s, s.cnt = n → motive s (.ok (s.readDone n rel)))
    (waits : ∀ s, s.cnt ≠ n → (s.rx = [] ∨ ∃ l, s.rx = none :: l ∧ s.clock = []) → motive s (.pending s))
    (late : ∀ s l t ts, s.cnt ≠ n → s.rx = none :: l → s.clock = t :: ts → timedOut s.params.w s.t0 (s.sampled t) = true →
      motive s (.timeout (s.pollEmpty l t ts).readTimedOut))
    (byte : ∀ s b l r, s.cnt ≠ n → s.rx = some b :: l → motive (s.takeByte b l) r → motive s r)
    (early : ∀ s l t ts r, s.cnt ≠ n → s.rx = none :: l → s.clock = t :: ts →
      timedOut s.params.w s.t0 (s.sampled t) = false → motive (s.pollEmpty l t ts) r → motive s r)
    (s : State) : motive s (pollLoop n rel s.rx s) := by
  suffices h : ∀ (l : List (Option Byte)) (s : State), s.rx = l → motive s (pollLoop n rel l s) from h s.rx s rfl
  intro l
  induction l with
  | nil =>
    intro s hs
    by_cases h : s.cnt = n
    · rw [pollLoop_done _ _ _ _ h]; exact done s h
    · rw [pollLoop_nil _ _ _ h]; exact waits s h (.inl hs)
  | cons a l ih =>
    intro s hs
    by_cases h : s.cnt = n
    · rw [pollLoop_done _ _ _ _ h]; exact done s h
    · cases a with
      | some b => rw [pollLoop_byte _ _ _ _ _ h]; exact byte s b l _ h hs (ih _ rfl)
      | none =>
        cases hc : s.clock with
        | nil => rw [pollLoop_stalled _ _ _ _ h hc]; exact waits s h (.inr ⟨l, hs, hc⟩)
        | cons t ts =>
          cases he : timedOut s.params.w s.t0 (s.sampled t) with
          | true => rw [pollLoop_late _ _ _ _ _ _ h hc he]; exact late s l t ts h hs hc he
          | false => rw [pollLoop_early _ _ _ _ _ _ h hc he]; exact early s l t ts _ h hs hc he (ih _ rfl)

/-- The frame of the poll loop. -/
theorem pollLoop_keeps (n : Nat) (rel : Bool) (s : State) : TransferKeeps s (pollLoop n rel s.rx s).state := by
  refine pollLoop_induction (motive := fun s r => TransferKeeps s r.state) ?_ ?_ ?_ ?_ ?_ s
  · exact fun s _ => readDone_keeps s n rel
  · exact fun s _ _ => TransferKeeps.refl s
  · exact fun s l t ts _ _ _ _ => (pollEmpty_keeps s l t ts).trans (readTimedOut_keeps _)
  · exact fun s b l r _ _ ih => (takeByte_keeps s b l).trans ih
  · exact fun s l t ts r _ _ _ _ ih => (pollEmpty_keeps s l t ts).trans ih

/-- The frame of a transfer. -/
theorem transfer_keeps (n : Nat) (rel : Bool) (s : State) : TransferKeeps s (transfer n rel s).state := by
  unfold transfer
  split
  · exact pollLoop_keeps n rel s
  · split
    · exact TransferKeeps.refl s
    · rename_i t ts _
      exact (sampleStart_keeps s t ts).trans (pollLoop_keeps n rel (s.sampleStart t ts))

/-- The frame of `xfer`: whichever way it stands, only HELD, RLEN, RB, T0, PH, the byte count, events and answers moved. -/
theorem xfer_keeps (cmd : List Byte) (n : Nat) (rel : Bool) (s : State) : TransferKeeps s (xfer cmd n rel s).state := by
  unfold xfer
  split
  · exact transfer_keeps n rel s
  · exact (beginRead_keeps s cmd n rel).trans (transfer_keeps n rel _)

/-! ### The bytes taken -/

/-- The bytes `bs` put in RB from index `k` on, in arrival order. -/
def placed : List Byte → Nat → Bytes8 → Bytes8
  | [], _, rb => rb
  | b :: bs, k, rb => placed bs (k + 1) (rb.setIfInBounds k b)

theorem placed_get (bs : List Byte) (k : Nat) (rb : Bytes8) (i : Nat) (h : i < 8) :
    (placed bs k rb)[i] = if k ≤ i ∧ i < k + bs.length then bs.getD (i - k) 0#8 else rb[i] := by
  induction bs generalizing k rb with
  | nil =>
    simp [placed]
  | cons b bs ih =>
    rw [placed, ih]
    by_cases h1 : k + 1 ≤ i ∧ i < k + 1 + bs.length
    · have h2 : k ≤ i ∧ i < k + (b :: bs).length := by simp; omega
      have h3 : i - k = (i - (k + 1)) + 1 := by omega
      rw [if_pos h1, if_pos h2, h3]
      simp
    · rw [if_neg h1]
      by_cases hk : k = i
      · subst hk
        simp
      · have h2 : ¬(k ≤ i ∧ i < k + (b :: bs).length) := by simp; omega
        rw [if_neg h2, Vector.getElem_setIfInBounds]
        simp [hk]

/-- A read's bytes over a cleared buffer: in arrival order, then zeros. -/
theorem placed_zeros (bs : List Byte) : placed bs 0 zeros8 = padded bs := by
  ext1 i h
  rw [placed_get]
  simp only [padded, zeros8, Vector.getElem_ofFn, Vector.getElem_replicate]
  split
  · simp
  · rename_i h'
    have : bs.length ≤ i := by omega
    simp [List.getElem?_eq_none this]

@[simp] theorem padded_nil : padded [] = zeros8 := by
  ext1 i h
  simp [padded, zeros8]

/-! ### The two exits -/

theorem timedOut_eq_false {w t0 t : Nat} : timedOut w t0 t = false ↔ elapsed w t0 t < 100 :=
  decide_eq_false_iff_not.trans Nat.not_le

theorem timedOut_eq_true {w t0 t : Nat} : timedOut w t0 t = true ↔ 100 ≤ elapsed w t0 t := decide_eq_true_iff

/-- On answers that deliver the missing bytes, the poll loop succeeds. -/
theorem pollLoop_delivers {w t0 m : Nat} {rx : List (Option Byte)} {clk : List Nat} {bs : List Byte} {evs : List Event}
    (h : Delivers w t0 m rx clk bs evs) :
    ∀ (s : State) (n : Nat) (rel : Bool) (rxR : List (Option Byte)) (clkR : List Nat),
      s.params.w = w → s.t0 = t0 → s.cnt + m = n → s.rx = rx ++ rxR → s.clock = clk ++ clkR →
      pollLoop n rel (rx ++ rxR) s =
        .ok ({ s with
          rb := placed bs s.cnt s.rb
          cnt := n
          rx := rxR
          clock := clkR
          events := s.events ++ evs }.readDone n rel) := by
  induction h with
  | complete =>
    intro s n rel rxR clkR hw ht hn hr hc
    rw [pollLoop_done _ _ _ _ (by omega)]
    cases s
    simp_all [placed]
  | byte b _ ih =>
    intro s n rel rxR clkR hw ht hn hr hc
    rw [List.cons_append, pollLoop_byte _ _ _ _ _ (by omega), ih _ n rel rxR clkR (by simpa) (by simpa) (by simp; omega) rfl (by simpa)]
    simp [State.takeByte, State.readDone, placed]
  | wait t early _ ih =>
    intro s n rel rxR clkR hw ht hn hr hc
    subst hw ht
    rw [List.cons_append, pollLoop_early _ _ _ _ t (_ ++ _) (by omega) hc (timedOut_eq_false.2 early),
      ih (s.pollEmpty _ t _) n rel rxR clkR rfl rfl hn rfl rfl]
    simp [State.pollEmpty, State.readDone, State.sampled]

/-- On answers that time out, the poll loop times out. -/
theorem pollLoop_timesOut {w t0 m : Nat} {rx : List (Option Byte)} {clk : List Nat} {bs : List Byte} {evs : List Event}
    (h : TimesOut w t0 m rx clk bs evs) :
    ∀ (s : State) (n : Nat) (rel : Bool) (rxR : List (Option Byte)) (clkR : List Nat),
      s.params.w = w → s.t0 = t0 → s.cnt + m = n → s.rx = rx ++ rxR → s.clock = clk ++ clkR →
      pollLoop n rel (rx ++ rxR) s =
        .timeout { s with
          cnt := s.cnt + bs.length
          rx := rxR
          clock := clkR
          events := s.events ++ evs }.readTimedOut := by
  induction h with
  | late t reached =>
    intro s n rel rxR clkR hw ht hn hr hc
    subst hw ht
    rw [List.cons_append, pollLoop_late _ _ _ _ t _ (by omega) hc (timedOut_eq_true.2 reached)]
    simp [State.pollEmpty, State.readTimedOut, State.sampled]
  | byte b _ ih =>
    intro s n rel rxR clkR hw ht hn hr hc
    rw [List.cons_append, pollLoop_byte _ _ _ _ _ (by omega), ih _ n rel rxR clkR (by simpa) (by simpa) (by simp; omega) rfl (by simpa)]
    simp [State.takeByte, State.readTimedOut]
    omega
  | wait t early _ ih =>
    intro s n rel rxR clkR hw ht hn hr hc
    subst hw ht
    rw [List.cons_append, pollLoop_early _ _ _ _ t (_ ++ _) (by omega) hc (timedOut_eq_false.2 early),
      ih (s.pollEmpty _ t _) n rel rxR clkR rfl rfl hn rfl rfl]
    simp [State.pollEmpty, State.readTimedOut, State.sampled]

/-- The poll loop leaves by success or timeout and by nothing else, on a head of the answers that says which; else it waits. -/
theorem pollLoop_exits (n : Nat) (rel : Bool) (s : State) (hn : s.cnt ≤ n) :
    match pollLoop n rel s.rx s with
    | .ok _ => ∃ rx rxR clk clkR bs evs, s.rx = rx ++ rxR ∧ s.clock = clk ++ clkR ∧
        Delivers s.params.w s.t0 (n - s.cnt) rx clk bs evs
    | .timeout _ => ∃ rx rxR clk clkR bs evs, s.rx = rx ++ rxR ∧ s.clock = clk ++ clkR ∧
        TimesOut s.params.w s.t0 (n - s.cnt) rx clk bs evs
    | .pending t => t.cnt < n ∧ t.ph = s.ph := by
  revert hn
  refine pollLoop_induction (motive := fun s r => s.cnt ≤ n → match r with
    | .ok _ => ∃ rx rxR clk clkR bs evs, s.rx = rx ++ rxR ∧ s.clock = clk ++ clkR ∧
        Delivers s.params.w s.t0 (n - s.cnt) rx clk bs evs
    | .timeout _ => ∃ rx rxR clk clkR bs evs, s.rx = rx ++ rxR ∧ s.clock = clk ++ clkR ∧
        TimesOut s.params.w s.t0 (n - s.cnt) rx clk bs evs
    | .pending t => t.cnt < n ∧ t.ph = s.ph) ?_ ?_ ?_ ?_ ?_ s
  · intro s h _
    have : n - s.cnt = 0 := by omega
    simp only [this]
    exact ⟨[], s.rx, [], s.clock, [], [], rfl, rfl, .complete⟩
  · intro s h _ hn
    exact ⟨by omega, rfl⟩
  · intro s l t ts h hr hc ht hn
    obtain ⟨m, hm⟩ : ∃ m, n - s.cnt = m + 1 := ⟨n - s.cnt - 1, by omega⟩
    simp only [hm]
    exact ⟨[none], l, [t], ts, _, _, hr, hc, .late t (timedOut_eq_true.1 ht)⟩
  · intro s b l r h hr ih hn
    obtain ⟨m, hm⟩ : ∃ m, n - s.cnt = m + 1 := ⟨n - s.cnt - 1, by omega⟩
    have ih := ih (by simp; omega)
    have hm' : n - (s.takeByte b l).cnt = m := by simp; omega
    cases r with
    | ok u =>
      obtain ⟨rx, rxR, clk, clkR, bs, evs, h1, h2, h3⟩ := ih
      rw [hm'] at h3
      simp only [hm]
      exact ⟨some b :: rx, rxR, clk, clkR, _, _, by rw [hr]; simpa using h1, h2, .byte b h3⟩
    | timeout u =>
      obtain ⟨rx, rxR, clk, clkR, bs, evs, h1, h2, h3⟩ := ih
      rw [hm'] at h3
      simp only [hm]
      exact ⟨some b :: rx, rxR, clk, clkR, _, _, by rw [hr]; simpa using h1, h2, .byte b h3⟩
    | pending u => exact ih
  · intro s l t ts r h hr hc he ih hn
    obtain ⟨m, hm⟩ : ∃ m, n - s.cnt = m + 1 := ⟨n - s.cnt - 1, by omega⟩
    have ih := ih (by simpa)
    have he := timedOut_eq_false.1 he
    cases r with
    | ok u =>
      obtain ⟨rx, rxR, clk, clkR, bs, evs, h1, h2, h3⟩ := ih
      simp only [State.pollEmpty_params, State.pollEmpty_t0, State.pollEmpty_cnt, hm] at h3 ⊢
      exact ⟨none :: rx, rxR, t :: clk, clkR, _, _, by rw [hr]; simpa using h1, by rw [hc]; simpa using h2, .wait t he h3⟩
    | timeout u =>
      obtain ⟨rx, rxR, clk, clkR, bs, evs, h1, h2, h3⟩ := ih
      simp only [State.pollEmpty_params, State.pollEmpty_t0, State.pollEmpty_cnt, hm] at h3 ⊢
      exact ⟨none :: rx, rxR, t :: clk, clkR, _, _, by rw [hr]; simpa using h1, by rw [hc]; simpa using h2, .wait t he h3⟩
    | pending u => exact ih

/-! ### The same of `xfer`, begun -/

/-- `xfer` begun on answers that deliver its bytes (41_transfer.md R146). -/
theorem xfer_delivers (cmd : List Byte) (n : Nat) (rel : Bool) (s : State) (t : Nat) (rx rxR : List (Option Byte))
    (clk clkR : List Nat) (bs : List Byte) (evs : List Event) (hs : s.inTransfer = false) (ha : Answered s t rx clk rxR clkR)
    (hd : Delivers s.params.w (t % 2 ^ s.params.w) n rx clk bs evs) :
    xfer cmd n rel s = .ok { afterRead s cmd n rel t bs evs rxR clkR with ph := .post } := by
  have hc : (s.beginRead cmd n rel).clock = t :: (clk ++ clkR) := ha.2
  have hp := pollLoop_delivers hd ((s.beginRead cmd n rel).sampleStart t (clk ++ clkR)) n rel rxR clkR rfl rfl (by simp) ha.1 rfl
  have hr : (s.beginRead cmd n rel).rx = rx ++ rxR := ha.1
  simp only [xfer, hs, transfer, Bool.false_eq_true, ↓reduceIte, State.beginRead_ph, hc, hr, hp]
  simp [State.readDone, afterRead, placed_zeros, requestEvents, writePhase, Config.addr, State.sampled]

/-- `xfer` begun on answers that time out (41_transfer.md R145). -/
theorem xfer_timesOut (cmd : List Byte) (n : Nat) (rel : Bool) (s : State) (t : Nat) (rx rxR : List (Option Byte))
    (clk clkR : List Nat) (bs : List Byte) (evs : List Event) (hs : s.inTransfer = false) (ha : Answered s t rx clk rxR clkR)
    (hd : TimesOut s.params.w (t % 2 ^ s.params.w) n rx clk bs evs) :
    xfer cmd n rel s = .timeout { afterTimeout s cmd n rel t bs evs rxR clkR with ph := .post } := by
  have hc : (s.beginRead cmd n rel).clock = t :: (clk ++ clkR) := ha.2
  have hp := pollLoop_timesOut hd ((s.beginRead cmd n rel).sampleStart t (clk ++ clkR)) n rel rxR clkR rfl rfl (by simp) ha.1 rfl
  have hr : (s.beginRead cmd n rel).rx = rx ++ rxR := ha.1
  simp only [xfer, hs, transfer, Bool.false_eq_true, ↓reduceIte, State.beginRead_ph, hc, hr, hp]
  simp [State.readTimedOut, afterTimeout, requestEvents, writePhase, Config.addr, State.sampled]

end Sys2Proof.Machine
end

