-- ==== Sys2Proof/Laws/Answers.lean ====
section
/-! SUPPORT. A transfer given further answers (log 2): it goes on from where it waits. -/

namespace Sys2Proof.Machine

/-- Further answers behind those at hand change nothing of a poll loop that ends without them; one that waits goes on with them
from where it waits. -/
theorem pollLoop_withAnswers (n : Nat) (rel : Bool) (rx : List (Option Byte)) (clk : List Nat) (s : State) :
    match pollLoop n rel s.rx s with
    | .ok t => pollLoop n rel (s.withAnswers rx clk).rx (s.withAnswers rx clk) = .ok (t.withAnswers rx clk)
    | .timeout t => pollLoop n rel (s.withAnswers rx clk).rx (s.withAnswers rx clk) = .timeout (t.withAnswers rx clk)
    | .pending t => pollLoop n rel (s.withAnswers rx clk).rx (s.withAnswers rx clk) =
        pollLoop n rel (t.withAnswers rx clk).rx (t.withAnswers rx clk) := by
  refine pollLoop_induction (motive := fun s r => match r with
    | .ok t => pollLoop n rel (s.withAnswers rx clk).rx (s.withAnswers rx clk) = .ok (t.withAnswers rx clk)
    | .timeout t => pollLoop n rel (s.withAnswers rx clk).rx (s.withAnswers rx clk) = .timeout (t.withAnswers rx clk)
    | .pending t => pollLoop n rel (s.withAnswers rx clk).rx (s.withAnswers rx clk) =
        pollLoop n rel (t.withAnswers rx clk).rx (t.withAnswers rx clk)) ?_ ?_ ?_ ?_ ?_ s
  · intro s h
    exact pollLoop_done _ _ _ _ h
  · intro s h _
    rfl
  · intro s l t ts h hr hc he
    have hr' : (s.withAnswers rx clk).rx = none :: (l ++ rx) := by simp [hr]
    rw [hr']
    exact pollLoop_late n rel (l ++ rx) (s.withAnswers rx clk) t (ts ++ clk) h (by simp [hc]) he
  · intro s b l r h hr ih
    have hr' : (s.withAnswers rx clk).rx = some b :: (l ++ rx) := by simp [hr]
    have e : pollLoop n rel (s.withAnswers rx clk).rx (s.withAnswers rx clk) =
        pollLoop n rel ((s.takeByte b l).withAnswers rx clk).rx ((s.takeByte b l).withAnswers rx clk) := by
      rw [hr', pollLoop_byte n rel b (l ++ rx) (s.withAnswers rx clk) h]
      rfl
    rw [e]; exact ih
  · intro s l t ts r h hr hc he ih
    have hr' : (s.withAnswers rx clk).rx = none :: (l ++ rx) := by simp [hr]
    have e : pollLoop n rel (s.withAnswers rx clk).rx (s.withAnswers rx clk) =
        pollLoop n rel ((s.pollEmpty l t ts).withAnswers rx clk).rx ((s.pollEmpty l t ts).withAnswers rx clk) := by
      rw [hr', pollLoop_early n rel (l ++ rx) (s.withAnswers rx clk) t (ts ++ clk) h (by simp [hc]) he]
      rfl
    rw [e]; exact ih

/-- A poll loop that waits leaves the phase as it was. -/
theorem pollLoop_ph (n : Nat) (rel : Bool) (s : State) : ∀ t, pollLoop n rel s.rx s = .pending t → t.ph = s.ph := by
  refine pollLoop_induction (motive := fun s r => ∀ t, r = .pending t → t.ph = s.ph) ?_ ?_ ?_ ?_ ?_ s
  · intro s h t e; cases e
  · intro s h _ t e; cases e; rfl
  · intro s l t ts h hr hc he u e; cases e
  · intro s b l r h hr ih t e; exact ih t e
  · intro s l t ts r h hr hc he ih u e; exact ih u e

/-- The same of a transfer under way. -/
theorem transfer_withAnswers (n : Nat) (rel : Bool) (rx : List (Option Byte)) (clk : List Nat) (s : State) (hs : s.inTransfer = true) :
    match transfer n rel s with
    | .ok t => transfer n rel (s.withAnswers rx clk) = .ok (t.withAnswers rx clk)
    | .timeout t => transfer n rel (s.withAnswers rx clk) = .timeout (t.withAnswers rx clk)
    | .pending t => t.inTransfer = true ∧ transfer n rel (s.withAnswers rx clk) = transfer n rel (t.withAnswers rx clk) := by
  have key := pollLoop_withAnswers n rel rx clk
  cases hp : s.ph with
  | poll =>
    have e1 : transfer n rel s = pollLoop n rel s.rx s := by simp [transfer, hp]
    have e2 : transfer n rel (s.withAnswers rx clk) = pollLoop n rel (s.withAnswers rx clk).rx (s.withAnswers rx clk) := by
      simp [transfer, hp]
    have := key s
    rw [e1, e2]
    cases h : pollLoop n rel s.rx s with
    | ok t => rw [h] at this; exact this
    | timeout t => rw [h] at this; exact this
    | pending t =>
      rw [h] at this
      have hph := pollLoop_ph n rel s t h
      rw [hp] at hph
      refine ⟨by simp [State.inTransfer, hph], ?_⟩
      rw [this]; simp [transfer, hph]
  | req =>
    cases hc : s.clock with
    | nil =>
      have e1 : transfer n rel s = .pending s := by simp [transfer, hp, hc]
      rw [e1]; exact ⟨hs, rfl⟩
    | cons t ts =>
      have e1 : transfer n rel s = pollLoop n rel (s.sampleStart t ts).rx (s.sampleStart t ts) := by simp [transfer, hp, hc]
      have e2 : transfer n rel (s.withAnswers rx clk) =
          pollLoop n rel ((s.sampleStart t ts).withAnswers rx clk).rx ((s.sampleStart t ts).withAnswers rx clk) := by
        simp [transfer, hp, hc]
        rfl
      have := key (s.sampleStart t ts)
      rw [e1, e2]
      cases h : pollLoop n rel (s.sampleStart t ts).rx (s.sampleStart t ts) with
      | ok u => rw [h] at this; exact this
      | timeout u => rw [h] at this; exact this
      | pending u =>
        rw [h] at this
        have hph := pollLoop_ph n rel _ u h
        refine ⟨by simp [State.inTransfer, hph], ?_⟩
        rw [this]; simp [transfer, hph]
  | idle => simp [State.inTransfer, hp] at hs
  | write => simp [State.inTransfer, hp] at hs
  | post => simp [State.inTransfer, hp] at hs

/-- The same of a transfer begun or under way; one that waits is under way. -/
theorem xfer_withAnswers (cmd : List Byte) (n : Nat) (rel : Bool) (rx : List (Option Byte)) (clk : List Nat) (s : State) :
    match xfer cmd n rel s with
    | .ok t => xfer cmd n rel (s.withAnswers rx clk) = .ok (t.withAnswers rx clk)
    | .timeout t => xfer cmd n rel (s.withAnswers rx clk) = .timeout (t.withAnswers rx clk)
    | .pending t => t.inTransfer = true ∧ xfer cmd n rel (s.withAnswers rx clk) = xfer cmd n rel (t.withAnswers rx clk) := by
  have step : ∀ u : State, u.inTransfer = true → xfer cmd n rel s = transfer n rel u →
      xfer cmd n rel (s.withAnswers rx clk) = transfer n rel (u.withAnswers rx clk) →
      (match xfer cmd n rel s with
       | .ok t => xfer cmd n rel (s.withAnswers rx clk) = .ok (t.withAnswers rx clk)
       | .timeout t => xfer cmd n rel (s.withAnswers rx clk) = .timeout (t.withAnswers rx clk)
       | .pending t => t.inTransfer = true ∧ xfer cmd n rel (s.withAnswers rx clk) = xfer cmd n rel (t.withAnswers rx clk)) := by
    intro u hu e1 e2
    have := transfer_withAnswers n rel rx clk u hu
    rw [e1, e2]
    cases h : transfer n rel u with
    | ok t => rw [h] at this; exact this
    | timeout t => rw [h] at this; exact this
    | pending t =>
      rw [h] at this
      refine ⟨this.1, this.2.trans ?_⟩
      have : (t.withAnswers rx clk).inTransfer = true := this.1
      simp [xfer, this]
  cases hs : s.inTransfer with
  | true =>
    have : (s.withAnswers rx clk).inTransfer = true := hs
    exact step s hs (by simp [xfer, hs]) (by simp [xfer, this])
  | false =>
    have : (s.withAnswers rx clk).inTransfer = false := hs
    exact step (s.beginRead cmd n rel) rfl (by simp [xfer, hs]) (by simp [xfer, this]; rfl)

end Sys2Proof.Machine
end

