-- ==== Sys2Proof/Laws/PerInstr.lean ====
section
/-! SUPPORT. Statements about every instruction as syntax, one lemma a constructor. -/

namespace Sys2Proof.Laws

/-- The bits of a word that holds a field value in its place. -/
theorem put_getLsbD {n : Nat} (v : BitVec n) (lo i : Nat) :
    (put v lo).getLsbD i = (decide (i < 32) && !decide (i < lo) && v.getLsbD (i - lo)) := by
  by_cases h : i - lo < 32
  · simp [put, h]
  · have : ¬i < 32 := by omega
    simp [put, this]

/-- The bits of a field of a word. -/
theorem field_getLsbD (w : Word) (lo len i : Nat) : (field w lo len).getLsbD i = (decide (i < len) && w.getLsbD (lo + i)) := by
  simp [field]

/-- A row of the opcode map matches a word bit by bit (30_encoding.md R94). -/
theorem matchesRow_iff (w mask pattern : Word) :
    matchesRow w mask pattern = true ↔ ∀ i, i < 32 → (w.getLsbD i && mask.getLsbD i) = pattern.getLsbD i := by
  simp only [matchesRow, beq_iff_eq]
  constructor
  · intro h i hi
    rw [← h, BitVec.getLsbD_and]
  · intro h
    apply BitVec.eq_of_getLsbD_eq
    intro i hi
    rw [BitVec.getLsbD_and]
    exact h i hi

/-- The opcode field of an encoded instruction is the opcode of its row (30_encoding.md R90, R94). -/
def Opcode.Statement (i : Instr) : Prop := opcodeOf (encode i) = i.opcode

theorem Opcode.xfer (cmd : Cmd) (rlen : Nat) (rel : Bool) : Opcode.Statement (.xfer cmd rlen rel) := by
  cases cmd <;>
    (refine BitVec.eq_of_getLsbD_eq fun i hi => ?_
     simp only [opcodeOf, field_getLsbD, encode, formatT, Instr.opcode, BitVec.getLsbD_or, put_getLsbD]
     interval_cases i <;> simp)

theorem Opcode.xwr (cmd : Cmd) : Opcode.Statement (.xwr cmd) := by
  cases cmd <;>
    (refine BitVec.eq_of_getLsbD_eq fun i hi => ?_
     simp only [opcodeOf, field_getLsbD, encode, formatT, Instr.opcode, BitVec.getLsbD_or, put_getLsbD]
     interval_cases i <;> simp)

theorem Opcode.crci : Opcode.Statement .crci := by unfold Opcode.Statement; decide

theorem Opcode.crcb (imm8 : Byte) : Opcode.Statement (.crcb imm8) := by
  (refine BitVec.eq_of_getLsbD_eq fun i hi => ?_
   simp only [opcodeOf, field_getLsbD, encode, formatB, Instr.opcode, BitVec.getLsbD_or, put_getLsbD]
   interval_cases i <;> simp)

theorem Opcode.crcv (imm8 : Byte) : Opcode.Statement (.crcv imm8) := by
  (refine BitVec.eq_of_getLsbD_eq fun i hi => ?_
   simp only [opcodeOf, field_getLsbD, encode, formatB, Instr.opcode, BitVec.getLsbD_or, put_getLsbD]
   interval_cases i <;> simp)

theorem Opcode.crcr (off n : Nat) : Opcode.Statement (.crcr off n) := by
  (refine BitVec.eq_of_getLsbD_eq fun i hi => ?_
   simp only [opcodeOf, field_getLsbD, encode, formatR, Instr.opcode, BitVec.getLsbD_or, put_getLsbD]
   interval_cases i <;> simp)

theorem Opcode.dect (src : RawSource) : Opcode.Statement (.dect src) := by
  cases src <;>
    (refine BitVec.eq_of_getLsbD_eq fun i hi => ?_
     simp only [opcodeOf, field_getLsbD, encode, formatI, Instr.opcode, BitVec.getLsbD_or, put_getLsbD]
     interval_cases i <;> simp)

theorem Opcode.dech (src : RawSource) : Opcode.Statement (.dech src) := by
  cases src <;>
    (refine BitVec.eq_of_getLsbD_eq fun i hi => ?_
     simp only [opcodeOf, field_getLsbD, encode, formatI, Instr.opcode, BitVec.getLsbD_or, put_getLsbD]
     interval_cases i <;> simp)

theorem Opcode.meast : Opcode.Statement .meast := by unfold Opcode.Statement; decide

theorem Opcode.meash : Opcode.Statement .meash := by unfold Opcode.Statement; decide

theorem Opcode.srst : Opcode.Statement .srst := by unfold Opcode.Statement; decide

theorem Opcode.rdur (rel : Bool) : Opcode.Statement (.rdur rel) := by
  (refine BitVec.eq_of_getLsbD_eq fun i hi => ?_
   simp only [opcodeOf, field_getLsbD, encode, formatP, Instr.opcode, BitVec.getLsbD_or, put_getLsbD]
   interval_cases i <;> simp)

theorem Opcode.setres (code : BitVec 2) : Opcode.Statement (.setres code) := by
  (refine BitVec.eq_of_getLsbD_eq fun i hi => ?_
   simp only [opcodeOf, field_getLsbD, encode, formatP, Instr.opcode, BitVec.getLsbD_or, put_getLsbD]
   interval_cases i <;> simp)

theorem Opcode.rdsn : Opcode.Statement .rdsn := by unfold Opcode.Statement; decide

end Sys2Proof.Laws
end

