-- ==== Sys2Proof/Laws/Reset.lean ====
section
/-! SUPPORT. What reset leaves, said once (10_state.md R38, 70_reset_and_hazards.md R260). -/

namespace Sys2Proof.Machine

/-- Eight bytes 0x00, one at a time. -/
@[simp] theorem zeros8_getElem (i : Nat) (h : i < 8) : zeros8[i] = 0#8 := by simp [zeros8]

theorem hardReset_atReset (s : State) : AtReset s.hardReset := by
  constructor <;> simp

/-- A reset inside an operation leaves the reset values, and the history up to it. -/
theorem cutShort_resetAfter (s s' : State) (k : Nat) :
    ResetAfter s (s.cutShort k s') ((s'.events.drop s.events.length).take k) s.rx s.clock s.script where
  values := by constructor <;> simp
  params := rfl
  events := rfl
  rx := rfl
  clock := rfl
  script := rfl
  hostReads := rfl
  draws := rfl

/-- All that `thenReset` can do. -/
theorem thenReset_of_next {k : Nat} {run : State → Host.Outcome State Fault Refusal} {s s' : State} (h : run s = .next s') :
    thenReset k run s = .next (s.cutShort k s') := by
  simp [thenReset, h]

/-- `thenReset` answers a next state exactly where `run` does. -/
theorem thenReset_next_iff {k : Nat} {run : State → Host.Outcome State Fault Refusal} {s t : State} :
    thenReset k run s = .next t ↔ ∃ s', run s = .next s' ∧ t = s.cutShort k s' := by
  unfold thenReset
  split <;> simp_all [eq_comm]

end Sys2Proof.Machine
end

