-- ==== Sys2Proof/Tests/Slice0.lean ====
section
/-! SUPPORT. Tests with results from spec/95_test_vectors.md (the vector is named at each), the smoke test of WellFormed, and for
every obligation with hypotheses a witness that meets them. -/

namespace Sys2Proof.Tests

open Sys2Proof Sys2Proof.Machine

set_option maxRecDepth 4000

/-! ## WellFormed refuses (30_encoding.md R93) -/

theorem test_wf_refuses_rlen_0 : (Instr.xfer (.one 0xE3#8) 0 true).wf = false := by decide
theorem test_wf_refuses_rlen_9 : (Instr.xfer (.one 0xE3#8) 9 true).wf = false := by decide
theorem test_wf_refuses_crcr_past_the_buffer : (Instr.crcr 5 3).wf = false := by decide

/-! ## Decode: the words of 95_test_vectors.md section 2.5, field by field as 30_encoding.md R96 has them -/

theorem test_decode_xfer_one : decode 0x0183E300#32 = .ok (.xfer (.one 0xE3#8) 3 true) := by rfl
theorem test_decode_xfer_two : decode 0x01410000#32 = .ok (.xfer (.two 0x00#8 0x00#8) 1 false) := by rfl
theorem test_decode_xwr_one : decode 0x0200FE00#32 = .ok (.xwr (.one 0xFE#8)) := by rfl
theorem test_decode_xwr_two : decode 0x0240E685#32 = .ok (.xwr (.two 0xE6#8 0x85#8)) := by rfl
theorem test_decode_crci : decode 0x08000000#32 = .ok .crci := by rfl
theorem test_decode_crcb : decode 0x09000064#32 = .ok (.crcb 0x64#8) := by rfl
theorem test_decode_crcv : decode 0x0A0000D1#32 = .ok (.crcv 0xD1#8) := by rfl
theorem test_decode_crcr : decode 0x0B000302#32 = .ok (.crcr 3 2) := by rfl
theorem test_decode_dect_imm : decode 0x1000648C#32 = .ok (.dect (.imm 0x648C#16)) := by rfl
theorem test_decode_dect_b : decode 0x10800000#32 = .ok (.dect .buffer) := by rfl
theorem test_decode_dech_imm : decode 0x11007C80#32 = .ok (.dech (.imm 0x7C80#16)) := by rfl
theorem test_decode_dech_b : decode 0x11800000#32 = .ok (.dech .buffer) := by rfl
theorem test_decode_meast : decode 0x20000000#32 = .ok .meast := by rfl
theorem test_decode_meash : decode 0x21000000#32 = .ok .meash := by rfl
theorem test_decode_srst : decode 0x22000000#32 = .ok .srst := by rfl
theorem test_decode_rdur_release : decode 0x23800000#32 = .ok (.rdur true) := by rfl
theorem test_decode_rdur_hold : decode 0x23000000#32 = .ok (.rdur false) := by rfl
theorem test_decode_setres : decode 0x24000002#32 = .ok (.setres 2#2) := by rfl
theorem test_decode_rdsn : decode 0x25000000#32 = .ok .rdsn := by rfl

/-- V-ILL-1 to V-ILL-11 and V-DEC-38. -/
theorem test_illegal_words :
    [0x00000000#32, 0xFFFFFFFF#32, 0x01000000#32, 0x0109E300#32, 0x0183E301#32, 0x0193E300#32, 0x0280FE00#32, 0x0201FE00#32,
      0x08000001#32, 0x09000164#32, 0x0B000503#32, 0x10800001#32].all (fun w => !(decode w).toBool) = true := by decide

theorem test_decode_table_word : decodeTableWord 32 0x24000003 = some (.setres 3#2) := by rfl

theorem test_encode_xfer : encode (.xfer (.two 0xFA#8 0x0F#8) 8 true) = 0x01C8FA0F#32 := by decide

/-! ## One step of each operation -/

/-- The state the step leaves when the host writes `w` to OP of `s`. -/
def after (s : State) (w : Word) : Option State :=
  match step { s with script := [.write 0 4 w] } with
  | .next t => some t
  | .fault _ => none
  | .refused _ => none

/-- The reset state with bytes waiting, and the clock at 0 when it is first read. -/
def bytesWaiting (bs : List Byte) : State := { State.reset with rx := bs.map some, clock := [0] }

/-- The reset state with no byte coming: the clock reads 0, then 99, then 100. -/
def noByte : State := { State.reset with rx := [none, none], clock := [0, 99, 100] }

/-- The reset state with the first `RLEN` bytes of RB received. -/
def received (bs : List Byte) : State := { State.reset with rb := padded bs, rlen := bs.length }

/-- Page A and page B of S8. -/
def goodPageA : List Byte := [0x11#8, 0x72#8, 0x22#8, 0xE4#8, 0x33#8, 0x96#8, 0x44#8, 0xF9#8]
def goodPageB : List Byte := [0x55#8, 0x66#8, 0x8D#8, 0x77#8, 0x88#8, 0x56#8]

/-- Two pages waiting, with a clock that reads 0 twice. -/
def pagesWaiting (a b : List Byte) : State := { State.reset with rx := (a ++ b).map some, clock := [0, 0] }

/-- V-XF-1. -/
theorem test_xfer_ok : (after (bytesWaiting [0x64#8, 0x8C#8, 0xD1#8]) 0x0183E300#32).map
    (fun t => (t.register 4, t.register 1, t.events)) =
    some (0x00D18C64#32, 0x00000302#32,
      [.bw 0x40#7, .wb 0xE3#8, .ew false, .br 0x40#7 3 true, .now 0, .av true, .rd 0x64#8, .av true, .rd 0x8C#8, .av true,
        .rd 0xD1#8]) := by decide

/-- V-XF-6: W = 8, the clock wraps, 99 counts go on and 100 time out. -/
theorem test_xfer_timeout_wraps :
    (after { State.resetOf { w := 8, snCrcCheck := true } with rx := [none, none], clock := [200, 43, 44] } 0x0181E700#32).map
      (fun t => (t.t0, t.register 1, t.clock)) = some (200, 0x0000001A#32, []) := by decide

/-- V-XF-12. -/
theorem test_xwr_one : (after { State.reset with held := true, t0 := 7 } 0x0200FE00#32).map (fun t => (t.held, t.t0, t.events)) =
    some (false, 7, [.bw 0x40#7, .wb 0xFE#8, .ew true]) := by decide

/-- V-XF-13. -/
theorem test_xwr_two : (after State.reset 0x0240E685#32).map (fun t => t.events) =
    some [.bw 0x40#7, .wb 0xE6#8, .wb 0x85#8, .ew true] := by decide

/-- V-CRC-30, from another accumulator. -/
theorem test_crci : (after { State.reset with acc := 0xD1#8 } 0x08000000#32).map (fun t => (t.acc, t.register 1)) =
    some (0x00#8, 0x00000002#32) := by decide

/-- V-CRC-32. -/
theorem test_crcb : (after { State.reset with acc := 0x7F#8 } 0x0900008C#32).map (fun t => (t.acc, t.register 1)) =
    some (0xD1#8, 0x00000002#32) := by decide

/-- V-CRC-33. -/
theorem test_crcv_equal : (after { State.reset with acc := 0xD1#8 } 0x0A0000D1#32).map (fun t => (t.acc, t.register 1)) =
    some (0xD1#8, 0x00000006#32) := by decide

/-- V-CRC-34. -/
theorem test_crcv_unequal : (after { State.reset with acc := 0xD1#8, crcok := true } 0x0A0000D0#32).map (fun t => t.register 1) =
    some 0x00000002#32 := by decide

/-- V-CRC-39. -/
theorem test_crcr : (after (received goodPageB) 0x0B000302#32).map (fun t => (t.acc, t.crcok)) = some (0x56#8, true) := by decide

/-- V-CRC-41. -/
theorem test_crcr_not_received :
    (after { received [0x64#8, 0x8C#8, 0xD1#8] with acc := 0x12#8 } 0x0B000102#32).map (fun t => (t.acc, t.err)) =
    some (0x12#8, .illegalOp) := by decide

/-- V-DEC-30, and the register VAL of V-DEC-8 (a tie, and a negative value). -/
theorem test_dect_imm : ((after State.reset 0x1000648C#32).map (fun t => (t.register 2, t.register 3)),
    (after State.reset 0x10002000#32).map (fun t => t.register 3)) =
    (some (0x0000648C#32, 0x000008A9#32), some 0xFFFFF648#32) := by decide

/-- V-DEC-37. -/
theorem test_dect_b_not_received : (after { received [0x3A#8] with raw := 0x1234#16 } 0x10800000#32).map
    (fun t => (t.raw, t.register 1)) = some (0x1234#16, 0x00000142#32) := by decide

/-- V-DEC-32. -/
theorem test_dech_imm : (after State.reset 0x11000000#32).map (fun t => t.register 3) = some 0xFFFFFDA8#32 := by decide

/-- V-DEC-35. -/
theorem test_dech_b : (after (received [0x7C#8, 0x80#8, 0xF5#8]) 0x11800000#32).map (fun t => (t.register 2, t.register 3)) =
    some (0x00007C80#32, 0x00001567#32) := by decide

/-- V-MEAS-1. -/
theorem test_meast : (after (bytesWaiting [0x64#8, 0x8C#8, 0xD1#8]) 0x20000000#32).map
    (fun t => (t.raw, t.val.toInt, t.acc, t.register 1)) = some (0x648C#16, 2217, 0xD1#8, 0x00000306#32) := by decide

/-- V-MEAS-3. -/
theorem test_meast_mismatch : (after { bytesWaiting [0x64#8, 0x8D#8, 0xD1#8] with raw := 0x1111#16, val := 5#16 } 0x20000000#32).map
    (fun t => (t.raw, t.val, t.acc, t.register 1)) = some (0x0000#16, 0x0000#16, 0xE0#8, 0x00000322#32) := by decide

/-- V-MEAS-2. -/
theorem test_meash : (after (bytesWaiting [0x7C#8, 0x80#8, 0xF5#8]) 0x21000000#32).map
    (fun t => (t.val.toInt, t.events.take 4)) =
    some (5479, [.bw 0x40#7, .wb 0xE5#8, .ew false, .br 0x40#7 3 true]) := by decide

/-- V-MEAS-6. -/
theorem test_meash_timeout : (after { noByte with acc := 0xD1#8, crcok := true } 0x21000000#32).map
    (fun t => (t.acc, t.register 1)) = some (0xD1#8, 0x0000001E#32) := by decide

/-- V-UR-11. -/
theorem test_srst : (after { State.reset with held := true, raw := 0x648C#16 } 0x22000000#32).map
    (fun t => (t.raw, t.register 1, t.events)) =
    some (0x648C#16, 0x00000002#32, [.bw 0x40#7, .wb 0xFE#8, .ew true]) := by decide

/-- V-UR-2. -/
theorem test_rdur_hold : (after (bytesWaiting [0x3A#8]) 0x23000000#32).map (fun t => (t.register 8, t.register 1)) =
    some (0x0000003A#32, 0x0000010A#32) := by decide

/-- V-UR-4. -/
theorem test_rdur_timeout : (after { noByte with urd := 0x3A#8 } 0x23800000#32).map (fun t => (t.register 8, t.register 1)) =
    some (0x00000000#32, 0x0000003A#32) := by decide

/-- V-UR-5. -/
theorem test_setres : (after (bytesWaiting [0x05#8]) 0x24000002#32).map (fun t => (t.register 8, t.err, t.held)) =
    some (0x00008505#32, .none, false) := by decide

/-- V-UR-10. -/
theorem test_setres_absent : (after (bytesWaiting [0x00#8]) 0x24000003#32).map (fun t => (t.urw, t.err, t.events.drop 7)) =
    some (0xC0#8, .deviceAbsent, [.bw 0x40#7, .wb 0xE6#8, .wb 0xC0#8, .ew true]) := by decide

/-- V-SN-1. -/
theorem test_rdsn : (after (pagesWaiting goodPageA goodPageB) 0x25000000#32).map
    (fun t => (t.register 6, t.register 7, t.acc, t.register 1)) =
    some (0x22118877#32, 0x66554433#32, 0x56#8, 0x00000606#32) := by decide

/-- V-SN-2: the history ends after the eighth RD. -/
theorem test_rdsn_mismatch :
    (after (pagesWaiting [0x11#8, 0x72#8, 0x22#8, 0xE4#8, 0x33#8, 0x97#8, 0x44#8, 0xF9#8] goodPageB) 0x25000000#32).map
      (fun t => (t.acc, t.register 1, t.events.length)) = some (0x96#8, 0x00000822#32, 22) := by decide

/-! ## The host's accesses and reset -/

/-- CFG after reset (95, conventions). -/
theorem test_cfg : State.reset.register 11 = 0x00206440#32 := by decide

/-- V-ILL-1, from reset. -/
theorem test_illegal_word : (after State.reset 0x00000000#32).map (fun t => (t.register 1, t.events)) =
    some (0x00000042#32, []) := by decide

/-- 70_reset_and_hazards.md R260: reset three primitives into a MEAST, before BR; no stop condition is added. -/
theorem test_reset_inside_a_write_phase :
    (match step { bytesWaiting [0x64#8, 0x8C#8, 0xD1#8] with script := [.writeThenReset 0x20000000#32 3] } with
     | .next t => some (t.register 1, t.events, t.rx.length, t.clock)
     | .fault _ => none
     | .refused _ => none) =
    some (0x00000000#32, [.bw 0x40#7, .wb 0xE3#8, .ew false], 3, [0]) := by decide

/-- A SETRES in its poll loop. -/
def rewriting : State := { State.reset with op := 0x24000002#32, busy := true, ph := .poll, held := true, urw := 0x3A#8 }

/-- 70_reset_and_hazards.md R260: a SETRES that waits for its byte is given it, and reset comes two primitives into the write-back
(42_protocol.md R176): no EW is made, no stop condition is sent. -/
theorem test_reset_inside_a_resumed_write_back :
    (match step { rewriting with script := [.answersThenReset [some 0x05#8] [] 4] } with
     | .next t => some (t.register 1, t.register 8, t.events, t.rx)
     | .fault _ => none
     | .refused _ => none) =
    some (0x00000000#32, 0x00000000#32, [.av true, .rd 0x05#8, .bw 0x40#7, .wb 0xE6#8], []) := by decide

/-- 70_reset_and_hazards.md R260: reset between the AV that answered false and the NOW after it (41_transfer.md R144, R145). -/
theorem test_reset_inside_a_poll :
    (match step { State.reset with op := 0x20000000#32, busy := true, ph := .poll, script := [.answersThenReset [none] [7] 1] } with
     | .next t => some (t.register 1, t.events, t.rx, t.clock)
     | .fault _ => none
     | .refused _ => none) = some (0x00000000#32, [.av false], [], [7]) := by decide

/-! ## Witnesses: states and operands that meet the hypotheses of the obligations -/

/-- An accepted operation, with the word in OP and the answers at hand. -/
def running (w : Word) (rx : List (Option Byte)) (clk : List Nat) : State :=
  { State.reset with op := w, busy := true, ph := .write, rx := rx, clock := clk }

/-- A MEAST in its poll loop, one byte taken. -/
def polling : State :=
  { State.reset with op := 0x20000000#32, busy := true, ph := .poll, cnt := 1, rb := padded [0x64#8], held := true }

/-- A MEAST that waits for its start sample. -/
def requesting : State := { State.reset with op := 0x20000000#32, busy := true, ph := .req, held := true }

theorem witness_DecodeOfEncode : (Instr.xfer (.one 0#8) 1 true).wf = true ∧ (Instr.xfer (.two 1#8 0#8) 8 false).wf = true ∧
    (Instr.crcr 7 0).wf = true ∧ (Instr.crcr 0 7).wf = true := by decide

theorem witness_EncodeOfDecode : decode 0x25000000#32 = .ok .rdsn := by rfl

theorem witness_IllegalWordChangesOnlyOpDoneErr :
    ∃ (s : State) (rest : List Input), s.busy = false ∧ s.script = .write 0 4 0x0193E300#32 :: rest ∧ ¬LegalWord 0x0193E300#32 :=
  ⟨{ State.reset with script := [.write 0 4 0x0193E300#32] }, [], by decide, by decide,
    by unfold LegalWord CmdLegal SourceLegal; decide⟩

theorem witness_StepRunsTheDecodedOperation :
    ∃ (s : State) (rest : List Input), s.busy = false ∧ s.script = .write 0 4 0x20000000#32 :: rest ∧
      decode 0x20000000#32 = .ok .meast :=
  ⟨{ State.reset with script := [.write 0 4 0x20000000#32] }, [], by decide, by decide, rfl⟩

theorem witness_FetchWordIsTheNextOperation : decodeTableWord 32 0x0B000302 = some (.crcr 3 2) := by rfl

theorem witness_AnswersGoToTheRunningOperation :
    (∃ (s : State) (rest : List Input), s.script = .answers [some 0x8C#8] [] :: rest ∧ s.busy = true ∧ decode s.op = .ok .meast) ∧
    (∃ (s : State) (rest : List Input), s.script = .answers [some 0x8C#8] [] :: rest ∧ s.busy = false) :=
  ⟨⟨{ polling with script := [.answers [some 0x8C#8] []] }, [], by decide, by decide, rfl⟩,
    ⟨{ State.reset with script := [.answers [some 0x8C#8] []] }, [], by decide, by decide⟩⟩

theorem witness_WordWrittenWhileBusyIsDropped :
    ∃ (s : State) (rest : List Input), s.busy = true ∧ s.script = .write 0 4 0x22000000#32 :: rest :=
  ⟨{ polling with script := [.write 0 4 0x22000000#32] }, [], by decide, by decide⟩

/-- The first and the last register that ignores writes. -/
theorem witness_OtherRegistersIgnoreWrites : ∀ off ∈ [0x04, 0x3C],
    ∃ (s : State) (rest : List Input), s.script = .write off 4 1#32 :: rest ∧ off % 4 = 0 ∧ 0 < off ∧ off < 64 := by
  intro off h
  refine ⟨{ State.reset with script := [.write off 4 1#32] }, [], rfl, ?_⟩
  revert off
  decide

/-- A half word, an unaligned word, the first word past the window: each as a write and as a read. -/
theorem witness_AccessOutsideTheInterfaceIsRefused : ∀ p ∈ [(0, 2), (2, 4), (64, 4)],
    (p.2 ≠ 4 ∨ p.1 % 4 ≠ 0 ∨ 64 ≤ p.1) ∧
    (∃ (s : State) (rest : List Input), s.script = .write p.1 p.2 1#32 :: rest) ∧
    (∃ (s : State) (rest : List Input), s.script = .read p.1 p.2 :: rest) := by
  intro p h
  refine ⟨?_, ⟨{ State.reset with script := [.write p.1 p.2 1#32] }, [], rfl⟩, ⟨{ State.reset with script := [.read p.1 p.2] }, [], rfl⟩⟩
  revert p
  decide

/-- Every offset of the window; the clauses of the statements about reads stand at 0x00, 0x08, ..., 0x30 and 0x3C. -/
theorem witness_reads : ∀ busy : Bool, ∀ off ∈ [0x00, 0x04, 0x08, 0x0C, 0x10, 0x14, 0x18, 0x1C, 0x20, 0x24, 0x28, 0x2C, 0x30, 0x3C],
    (∃ (s : State) (rest : List Input), s.busy = busy ∧ s.script = .read off 4 :: rest) ∧ off % 4 = 0 ∧ off < 64 := by
  intro busy off h
  refine ⟨⟨{ State.reset with busy := busy, script := [.read off 4] }, [], rfl, rfl⟩, ?_⟩
  revert off
  decide

theorem witness_IdleReadReturnsTheRegister :
    ∃ (s : State) (rest : List Input), s.busy = false ∧ s.script = .read 0x28 4 :: rest ∧ s.t0 = 2 ^ 32 - 1 :=
  ⟨{ State.reset with script := [.read 0x28 4], t0 := 2 ^ 32 - 1 }, [], by decide, by decide, by decide⟩

theorem witness_StatusHoldsItsFields :
    ∃ (s : State) (rest : List Input), s.busy = false ∧ s.script = .read 0x04 4 :: rest ∧ s.err = .illegalOp ∧ s.rlen = 8 :=
  ⟨{ State.reset with script := [.read 0x04 4], err := .illegalOp, rlen := 8 }, [], by decide, by decide, by decide, by decide⟩

/-- The four words of the two buffers, with the bytes at their ends. -/
theorem witness_BuffersReadLittleEndianByIndex : ∀ p ∈ [(0x10, 0), (0x10, 3), (0x14, 4), (0x14, 7)],
    (∃ (s : State) (rest : List Input), s.busy = false ∧ s.script = .read p.1 4 :: rest ∧ p.1 = 0x10 + 4 * (p.2 / 4)) ∧
    (∃ (s : State) (rest : List Input), s.busy = false ∧ s.script = .read (p.1 + 8) 4 :: rest ∧ p.1 + 8 = 0x18 + 4 * (p.2 / 4)) := by
  intro p h
  refine ⟨⟨{ State.reset with script := [.read p.1 4] }, [], rfl, rfl, ?_⟩,
    ⟨{ State.reset with script := [.read (p.1 + 8) 4] }, [], rfl, rfl, ?_⟩⟩ <;>
  · revert p
    decide

theorem witness_BusyReadShowsBusyOpAndCfg : ∀ off ∈ [0x00, 0x04, 0x2C],
    ∃ (s : State) (rest : List Input), s.busy = true ∧ s.script = .read off 4 :: rest :=
  fun off _ => ⟨{ polling with script := [.read off 4] }, [], rfl, rfl⟩

theorem witness_IdleBlockHoldsItsState : State.reset.busy = false ∧ State.reset.script = [] := by decide

/-- An operation in its poll loop meets the invariant. -/
theorem witness_polling_inv : Inv polling where
  width := by decide
  busy_iff := by decide
  not_busy_done := by decide
  waits := by decide
  rlen_le := by decide
  tail_zero := by decide
  running_tail := by decide
  req_none := by decide
  running := fun _ => ⟨.meast, 3, rfl, rfl, by decide, by decide⟩
  t0_lt := by decide

/-- An operation that waits for its start sample meets the invariant. -/
theorem witness_requesting_inv : Inv requesting where
  width := by decide
  busy_iff := by decide
  not_busy_done := by decide
  waits := by decide
  rlen_le := by decide
  tail_zero := by decide
  running_tail := by decide
  req_none := by decide
  running := fun _ => ⟨.meast, 3, rfl, rfl, by decide, by decide⟩
  t0_lt := by decide

theorem witness_FreeAnswersMakeProgress :
    (Inv polling ∧ polling.busy = true ∧ polling.script = []) ∧ (Inv requesting ∧ requesting.busy = true ∧ requesting.script = []) :=
  ⟨⟨witness_polling_inv, rfl, rfl⟩, ⟨witness_requesting_inv, rfl, rfl⟩⟩

/-- An operation that ends and one that goes on. -/
theorem witness_CompletionRaisesDoneAndReturnsToIdle :
    (∃ t, exec .crci (running 0x08000000#32 [] []) = .next t ∧ t.busy = false) ∧
    (∃ t, exec .meast (running 0x20000000#32 [none] [0]) = .next t ∧ t.busy = true ∧ t.ph = .poll) ∧
    (running 0x20000000#32 [none] [0]).busy = true :=
  ⟨⟨_, rfl, rfl⟩, ⟨_, rfl, rfl, rfl⟩, rfl⟩

theorem witness_ResetClearsTheBlockAndNothingElse :
    ∃ (s : State) (rest : List Input), s.script = .reset :: rest ∧ s.busy = true :=
  ⟨{ polling with script := [.reset] }, [], rfl, rfl⟩

/-- A legal word at an idle block, a word at a busy block, an illegal word. -/
theorem witness_ResetAbandonsARunningOperation :
    (∃ (s : State) (rest : List Input), s.busy = false ∧ s.script = .writeThenReset 0x20000000#32 3 :: rest) ∧
    (∃ (s : State) (rest : List Input), s.busy = true ∧ s.script = .writeThenReset 0x20000000#32 3 :: rest) ∧
    (∃ (s : State) (rest : List Input), s.script = .writeThenReset 0x00000000#32 0 :: rest ∧ Rejected 0x00000000#32) :=
  ⟨⟨{ bytesWaiting [0x64#8] with script := [.writeThenReset 0x20000000#32 3] }, [], rfl, rfl⟩,
    ⟨{ polling with script := [.writeThenReset 0x20000000#32 3] }, [], rfl, rfl⟩,
    ⟨{ State.reset with script := [.writeThenReset 0x00000000#32 0] }, [], rfl, ⟨.opcode, rfl⟩⟩⟩

/-- A running operation and an idle block. -/
theorem witness_ResetAbandonsAResumedOperation :
    (∃ (s : State) (rest : List Input), s.busy = true ∧ s.script = .answersThenReset [some 0x8C#8] [] 1 :: rest) ∧
    (∃ (s : State) (rest : List Input), s.busy = false ∧ s.script = .answersThenReset [some 0x8C#8] [] 1 :: rest) :=
  ⟨⟨{ polling with script := [.answersThenReset [some 0x8C#8] [] 1] }, [], rfl, rfl⟩,
    ⟨{ State.reset with script := [.answersThenReset [some 0x8C#8] [] 1] }, [], rfl, rfl⟩⟩

/-- The reset state meets the invariant, so it meets the hypothesis of the statements about every step; so does a state inside an
operation, and each has a next state. -/
theorem witness_EveryStepKeepsTheInvariant :
    Inv polling ∧ ∃ t, step { polling with script := [.reset] } = .next t := ⟨witness_polling_inv, _, rfl⟩

theorem witness_EveryStepKeepsTheInvariant_idle :
    Inv { polling with script := [.answers [some 0x8C#8, some 0xD1#8] []] } ∧
    ∃ t, step { polling with script := [.answers [some 0x8C#8, some 0xD1#8] []] } = .next t :=
  ⟨{ width := witness_polling_inv.width, busy_iff := witness_polling_inv.busy_iff,
     not_busy_done := witness_polling_inv.not_busy_done, waits := witness_polling_inv.waits,
     rlen_le := witness_polling_inv.rlen_le, tail_zero := witness_polling_inv.tail_zero,
     running_tail := witness_polling_inv.running_tail, req_none := witness_polling_inv.req_none,
     running := witness_polling_inv.running, t0_lt := witness_polling_inv.t0_lt }, _, rfl⟩

/-- A history with a bus address and one with an `RD`. -/
theorem witness_histories :
    SensorOnly { State.reset with events := [.bw 0x40#7] } ∧
    ReadsFollowAvailable { State.reset with events := [.av true, .rd 0x64#8] } := by
  constructor
  · intro e he a ha
    simp only [List.mem_singleton] at he
    subst he
    simpa [Event.address, eq_comm] using ha
  · intro before after b h
    match before with
    | [] => simp at h
    | [e] =>
      obtain ⟨rfl, _⟩ := List.cons.inj h
      exact ⟨[], rfl⟩
    | _ :: _ :: l => simp at h

/-- A step from such a history. -/
theorem witness_history_steps :
    (∃ t, step { State.reset with events := [.bw 0x40#7], script := [.write 0 4 0x22000000#32] } = .next t) ∧
    (∃ t, step { bytesWaiting [0x3A#8] with events := [.av true, .rd 0x64#8], script := [.write 0 4 0x23800000#32] } = .next t) :=
  ⟨⟨_, rfl⟩, ⟨_, rfl⟩⟩

theorem witness_CrcbAbsorbsOneByte : ({ State.reset with acc := 0x7F#8 } : State).acc.toNat = crcWide [0x64#8] := by decide

theorem witness_CrcvComparesTheAccumulator : State.reset.acc = 0x00#8 ∧ State.reset.acc ≠ 0x01#8 := by decide

/-- The last checksum position of the buffer, received and not received; the first operands past it. -/
theorem witness_CrcrValidatesTheBuffer :
    (5 + 2 ≤ 7 ∧ 5 + 2 < (received goodPageA).rlen ∧ (received goodPageB).rlen ≤ 5 + 2) ∧
    (15 < 16 ∧ 0 < 16 ∧ 7 < 15 + 0) ∧ (4 < 16 ∧ 4 < 16 ∧ 7 < 4 + 4) := by decide

theorem witness_ChecksumDetectsEverySingleBitFlip : 0 < 8 ∧ 7 < 8 := by decide

/-- Answers that deliver three bytes, with one poll between that finds nothing at 99 counts. -/
theorem witness_delivers_3 :
    Delivers 32 (0 % 2 ^ 32) 3 [some 0x64#8, none, some 0x8C#8, some 0xD1#8] [99] [0x64#8, 0x8C#8, 0xD1#8]
      [.av true, .rd 0x64#8, .av false, .now 99, .av true, .rd 0x8C#8, .av true, .rd 0xD1#8] :=
  .byte _ (.wait 99 (by decide) (.byte _ (.byte _ .complete)))

/-- Answers that time out at 100 counts, one byte taken. -/
theorem witness_timesOut_3 :
    TimesOut 32 (0 % 2 ^ 32) 3 [some 0x64#8, none, none] [99, 100] [0x64#8] [.av true, .rd 0x64#8, .av false, .now 99, .av false, .now 100] :=
  .byte _ (.wait 99 (by decide) (.late 100 (by decide)))

/-- Answers that deliver one byte, and that time out waiting for one. -/
theorem witness_delivers_1 (u : Byte) : Delivers 32 (0 % 2 ^ 32) 1 [some u] [] [u] [.av true, .rd u] := .byte u .complete
theorem witness_timesOut_1 : TimesOut 32 (0 % 2 ^ 32) 1 [none] [100] [] [.av false, .now 100] := .late 100 (by decide)

/-- The state in which those answers stand at the head. -/
theorem witness_answered_3 :
    (running 0#32 [some 0x64#8, none, some 0x8C#8, some 0xD1#8, none] [0, 99, 7]).inTransfer = false ∧
    Answered (running 0#32 [some 0x64#8, none, some 0x8C#8, some 0xD1#8, none] [0, 99, 7]) 0
      [some 0x64#8, none, some 0x8C#8, some 0xD1#8] [99] [none] [7] ∧
    (running 0#32 [some 0x64#8, none, none] [0, 99, 100]).inTransfer = false ∧
    Answered (running 0#32 [some 0x64#8, none, none] [0, 99, 100]) 0 [some 0x64#8, none, none] [99, 100] [] [] :=
  ⟨rfl, ⟨rfl, rfl⟩, rfl, ⟨rfl, rfl⟩⟩

/-- XFER: three bytes and a timeout, by `witness_delivers_3`, `witness_timesOut_3`, `witness_answered_3`; the bounds of `n`; and eight bytes. -/
theorem witness_XferReadsOrTimesOut :
    (1 ≤ 1 ∧ 1 ≤ 8 ∧ 1 ≤ 8 ∧ 8 ≤ 8) ∧
    ((0x01000000#32).toNat / 0x1000000 = 0x01 ∧ ((0x01000000#32).toNat / 0x10000) % 16 = 0) ∧
    ((0x0109E300#32).toNat / 0x1000000 = 0x01 ∧ 8 < ((0x0109E300#32).toNat / 0x10000) % 16) ∧
    ((0x0193E300#32).toNat / 0x1000000 = 0x01 ∧ ((0x0193E300#32).toNat / 0x100000) % 4 ≠ 0) ∧
    ((0x0183E301#32).toNat / 0x1000000 = 0x01 ∧ ((0x0183E301#32).toNat / 0x400000) % 2 = 0 ∧ (0x0183E301#32).toNat % 256 ≠ 0) ∧
    Delivers 32 (0 % 2 ^ 32) 8 (goodPageA.map some) [] goodPageA
      [.av true, .rd 0x11#8, .av true, .rd 0x72#8, .av true, .rd 0x22#8, .av true, .rd 0xE4#8, .av true, .rd 0x33#8, .av true,
        .rd 0x96#8, .av true, .rd 0x44#8, .av true, .rd 0xF9#8] :=
  ⟨by decide, by decide, by decide, by decide, by decide,
    .byte _ (.byte _ (.byte _ (.byte _ (.byte _ (.byte _ (.byte _ (.byte _ .complete)))))))⟩

theorem witness_TransferEndsOnlyBySuccessOrTimeout :
    ∃ t, exec (.xfer (.one 0xE7#8) 1 true) (running 0x0181E700#32 [some 0x3A#8] [0]) = .next t ∧ t.busy = false ∧
      (running 0x0181E700#32 [some 0x3A#8] [0]).inTransfer = false ∧ (running 0x0181E700#32 [some 0x3A#8] [0]).busy = true :=
  ⟨_, rfl, rfl, rfl, rfl⟩

theorem witness_StoppedClockHangsTheTransfer :
    (running 0x0183E300#32 [some 0x64#8, none, none] [5, 5, 5]).inTransfer = false ∧
    (running 0x0183E300#32 [some 0x64#8, none, none] [5, 5, 5]).busy = true ∧ [0x64#8].length < 3 ∧
    (running 0x0183E300#32 [some 0x64#8, none, none] [5, 5, 5]).rx = [0x64#8].map some ++ List.replicate 2 none ∧
    (running 0x0183E300#32 [some 0x64#8, none, none] [5, 5, 5]).clock = List.replicate (2 + 1) 5 := by decide

/-- A clock that counts from 250 over the wrap of W = 8 to 350; no byte comes. -/
theorem witness_FairEnvironmentEndsTheTransfer :
    ∃ s : State, s.inTransfer = false ∧ s.busy = true ∧ s.params.w = 8 ∧
      s.clock = (250 :: [349, 350]).map (· % 2 ^ s.params.w) ∧ (∀ c ∈ [349, 350], 250 ≤ c ∧ c - 250 < 2 ^ s.params.w) ∧
      (∃ c ∈ [349, 350], 250 + 100 ≤ c) ∧ [349, 350].length ≤ s.rx.countP (· == none) :=
  ⟨{ running 0x0181E700#32 [none, none] [250, 93, 94] with params := { w := 8, snCrcCheck := true } }, by decide⟩

theorem witness_ElapsedIsTheTrueCount : 200 ≤ 300 ∧ 300 - 200 < 2 ^ 8 ∧ 0 ≤ 255 ∧ 255 - 0 < 2 ^ 8 := by decide

/-- A read that times out; and the two clocks of the last clause: one that stands short of a count, and one that steps by one. -/
theorem witness_TimeoutComesAtOneHundredCounts :
    (∃ t, exec (.xfer (.one 0xE7#8) 1 true) (running 0x0181E700#32 [none, none] [0, 99, 100]) = .next t ∧ t.busy = false ∧
      t.err = .timeout) ∧
    8 ≤ (running 0x0181E700#32 [none, none] [0, 99, 100]).params.w ∧
    (running 0x0181E700#32 [none, none] [0, 99, 100]).inTransfer = false ∧
    (running 0x0181E700#32 [none, none] [0, 99, 100]).busy = true :=
  ⟨⟨_, rfl, rfl, rfl⟩, by decide, rfl, rfl⟩

/-- Polled once a count from 0 to 100. -/
theorem witness_TimeoutComesAtOneHundredCounts_polled :
    PolledEveryCount 32 (running 0x0181E700#32 (List.replicate 100 none) (List.range 101)).clock ∧
    ∃ t, exec (.xfer (.one 0xE7#8) 1 true) (running 0x0181E700#32 (List.replicate 100 none) (List.range 101)) = .next t ∧
      t.busy = false ∧ t.err = .timeout := by
  refine ⟨?_, _, rfl, rfl, rfl⟩
  show PolledEveryCount 32 (List.range 101)
  simp only [List.range, List.range.loop, PolledEveryCount, and_true]
  repeat' apply And.intro
  all_goals decide

theorem witness_XwrWritesWithAFullStop :
    ((0x0280FE00#32).toNat / 0x1000000 = 0x02 ∧ ((0x0280FE00#32).toNat / 0x800000) % 2 = 1) ∧
    ((0x0201FE00#32).toNat / 0x1000000 = 0x02 ∧ ((0x0201FE00#32).toNat / 0x10000) % 16 ≠ 0) ∧
    ((0x0220FE00#32).toNat / 0x1000000 = 0x02 ∧ ((0x0220FE00#32).toNat / 0x100000) % 4 ≠ 0) ∧
    ((0x0200FE01#32).toNat / 0x1000000 = 0x02 ∧ ((0x0200FE01#32).toNat / 0x400000) % 2 = 0 ∧ (0x0200FE01#32).toNat % 256 ≠ 0) := by
  decide

theorem witness_SplittingTheAnswersChangesNothing :
    (running 0x20000000#32 [some 0x64#8] [0]).busy = true ∧
    ∃ m, exec .meast (running 0x20000000#32 [some 0x64#8] [0]) = .next m ∧ m.busy = true := ⟨rfl, _, rfl, rfl⟩

/-- RLEN 1 and 2, the values about the bound; the two shapes of illegal word, for DECT and DECH. -/
theorem witness_DectDecodesATemperature :
    (received [0x64#8]).rlen < 2 ∧
    (2 ≤ (received [0x64#8, 0x8C#8]).rlen ∧
      (0x648C#16).toNat = (received [0x64#8, 0x8C#8]).rb[0].toNat * 256 + (received [0x64#8, 0x8C#8]).rb[1].toNat) ∧
    ((0x10800001#32).toNat / 0x1000000 = 0x10 ∧ ((0x10800001#32).toNat / 0x800000) % 2 = 1 ∧ (0x10800001#32).toNat % 0x10000 ≠ 0) ∧
    ((0x10010000#32).toNat / 0x1000000 = 0x10 ∧ ((0x10010000#32).toNat / 0x10000) % 128 ≠ 0) := by decide

theorem witness_DechDecodesAHumidity :
    (received [0x7C#8]).rlen < 2 ∧
    (2 ≤ (received [0x7C#8, 0x80#8]).rlen ∧
      (0x7C80#16).toNat = (received [0x7C#8, 0x80#8]).rb[0].toNat * 256 + (received [0x7C#8, 0x80#8]).rb[1].toNat) ∧
    ((0x11800001#32).toNat / 0x1000000 = 0x11 ∧ ((0x11800001#32).toNat / 0x800000) % 2 = 1 ∧ (0x11800001#32).toNat % 0x10000 ≠ 0) ∧
    ((0x11010000#32).toNat / 0x1000000 = 0x11 ∧ ((0x11010000#32).toNat / 0x10000) % 128 ≠ 0) := by decide

/-- The four ties. -/
theorem witness_DecoderIsAccurateToHalfAHundredth :
    (0x2000#16).toNat = 0x2000 ∧ (0x6000#16).toNat = 0x6000 ∧ (0xA000#16).toNat = 0xA000 ∧ (0xE000#16).toNat = 0xE000 := by decide

theorem witness_DecoderFitsSixteenBitsAndIsMonotone : (0x0000#16).toNat ≤ (0xFFFF#16).toNat ∧
    ((-4685 : Int) ≤ 12887 ∧ (12887 : Int) ≤ 12887) ∧ ((-600 : Int) ≤ -600 ∧ (-600 : Int) ≤ 11900) := by decide

/-- MEAST and MEASH: answers that deliver a reading that fits its checksum, one that does not, and that time out; with
`witness_answered_3` for the state. -/
theorem witness_MeastMeasuresTemperature :
    Delivers 32 (0 % 2 ^ 32) 3 [some 0x64#8, some 0x8C#8, some 0xD1#8] [] [0x64#8, 0x8C#8, 0xD1#8]
      [.av true, .rd 0x64#8, .av true, .rd 0x8C#8, .av true, .rd 0xD1#8] ∧
    (0xD1#8).toNat = crcWide [0x64#8, 0x8C#8] ∧
    Delivers 32 (0 % 2 ^ 32) 3 [some 0x64#8, some 0x8D#8, some 0xD1#8] [] [0x64#8, 0x8D#8, 0xD1#8]
      [.av true, .rd 0x64#8, .av true, .rd 0x8D#8, .av true, .rd 0xD1#8] ∧
    (0xD1#8).toNat ≠ crcWide [0x64#8, 0x8D#8] ∧
    TimesOut 32 (0 % 2 ^ 32) 3 [some 0x64#8, none, none] [99, 100] [0x64#8]
      [.av true, .rd 0x64#8, .av false, .now 99, .av false, .now 100] ∧
    ∀ b : Byte, Answered (running 0x20000000#32 [some 0x64#8, some b, some 0xD1#8] [0]) 0 [some 0x64#8, some b, some 0xD1#8] [] [] [] :=
  ⟨.byte _ (.byte _ (.byte _ .complete)), by decide, .byte _ (.byte _ (.byte _ .complete)), by decide, witness_timesOut_3,
    fun _ => ⟨rfl, rfl⟩⟩

theorem witness_MeashMeasuresHumidity :
    Delivers 32 (0 % 2 ^ 32) 3 [some 0x7C#8, some 0x80#8, some 0xF5#8] [] [0x7C#8, 0x80#8, 0xF5#8]
      [.av true, .rd 0x7C#8, .av true, .rd 0x80#8, .av true, .rd 0xF5#8] ∧
    (0xF5#8).toNat = crcWide [0x7C#8, 0x80#8] ∧
    Delivers 32 (0 % 2 ^ 32) 3 [some 0xFF#8, some 0xFF#8, some 0xFF#8] [] [0xFF#8, 0xFF#8, 0xFF#8]
      [.av true, .rd 0xFF#8, .av true, .rd 0xFF#8, .av true, .rd 0xFF#8] ∧
    (0xFF#8).toNat ≠ crcWide [0xFF#8, 0xFF#8] ∧
    Answered (running 0x21000000#32 [some 0x7C#8, some 0x80#8, some 0xF5#8] [0]) 0 [some 0x7C#8, some 0x80#8, some 0xF5#8] [] [] [] :=
  ⟨.byte _ (.byte _ (.byte _ .complete)), by decide, .byte _ (.byte _ (.byte _ .complete)), by decide, rfl, rfl⟩

theorem witness_SrstActsAsXwrOfTheResetCommand :
    ∃ s : State, s.busy = false ∧ s.script = [.write 0 4 0x22000000#32] :=
  ⟨{ State.reset with script := [.write 0 4 0x22000000#32] }, rfl, rfl⟩

/-- RDUR: a byte, the byte 0x00, and no byte. -/
theorem witness_RdurReadsTheUserRegister :
    (∀ u : Byte, (running 0x23800000#32 [some u] [0]).inTransfer = false ∧
      Answered (running 0x23800000#32 [some u] [0]) 0 [some u] [] [] [] ∧
      Delivers 32 (0 % 2 ^ 32) 1 [some u] [] [u] [.av true, .rd u]) ∧
    (0x3A#8 ≠ 0x00#8 ∧ 0x00#8 = 0x00#8) ∧
    Answered (running 0x23800000#32 [none] [0, 100]) 0 [none] [100] [] [] ∧
    TimesOut 32 (0 % 2 ^ 32) 1 [none] [100] [] [.av false, .now 100] :=
  ⟨fun u => ⟨rfl, ⟨rfl, rfl⟩, .byte u .complete⟩, by decide, ⟨rfl, rfl⟩, witness_timesOut_1⟩

/-- SETRES: the byte 0x05 with code 2, the byte 0x00 with code 3, and no byte with code 3. -/
theorem witness_SetresRewritesTheResolution :
    (∀ u : Byte, (running 0x24000002#32 [some u] [0]).inTransfer = false ∧
      Answered (running 0x24000002#32 [some u] [0]) 0 [some u] [] [] [] ∧
      Delivers 32 (0 % 2 ^ 32) 1 [some u] [] [u] [.av true, .rd u]) ∧
    (0x85#8).toNat = (0x05#8).toNat % 64 + (2#2).toNat * 64 ∧
    (0xC0#8).toNat = (0x00#8).toNat % 64 + (3#2).toNat * 64 ∧
    Answered (running 0x24000003#32 [none] [0, 100]) 0 [none] [100] [] [] ∧
    TimesOut 32 (0 % 2 ^ 32) 1 [none] [100] [] [.av false, .now 100] ∧ (0xC0#8).toNat = (3#2).toNat * 64 :=
  ⟨fun u => ⟨rfl, ⟨rfl, rfl⟩, .byte u .complete⟩, by decide, by decide, ⟨rfl, rfl⟩, witness_timesOut_1, by decide⟩

/-- Eight bytes waiting are delivered; so are six. -/
theorem witness_page_a (a0 a1 a2 a3 a4 a5 a6 a7 : Byte) :
    ∃ evs, Delivers 32 (0 % 2 ^ 32) 8 ([a0, a1, a2, a3, a4, a5, a6, a7].map some) [] [a0, a1, a2, a3, a4, a5, a6, a7] evs :=
  ⟨_, .byte _ (.byte _ (.byte _ (.byte _ (.byte _ (.byte _ (.byte _ (.byte _ .complete)))))))⟩

theorem witness_page_b (b0 b1 b2 b3 b4 b5 : Byte) :
    ∃ evs, Delivers 32 (0 % 2 ^ 32) 6 ([b0, b1, b2, b3, b4, b5].map some) [] [b0, b1, b2, b3, b4, b5] evs :=
  ⟨_, .byte _ (.byte _ (.byte _ (.byte _ (.byte _ (.byte _ .complete)))))⟩

/-- A state with two pages waiting, accepted. -/
def serialRunning (a b : List Byte) : State := running 0x25000000#32 ((a ++ b).map some) [0, 0]

theorem witness_RdsnReadsTheSerialNumber :
    (serialRunning goodPageA goodPageB).inTransfer = false ∧
    Answered (serialRunning goodPageA goodPageB) 0 (goodPageA.map some) [] (goodPageB.map some ++ []) (0 :: ([] ++ [])) ∧
    (∃ evs, Delivers 32 (0 % 2 ^ 32) 8 (goodPageA.map some) [] goodPageA evs) ∧
    (∃ evs, Delivers 32 (0 % 2 ^ 32) 6 (goodPageB.map some) [] goodPageB evs) ∧
    (crc [0x11#8] = 0x72#8 ∧ crc [0x22#8] = 0xE4#8 ∧ crc [0x33#8] = 0x96#8 ∧ crc [0x44#8] = 0xF9#8 ∧
      crc [0x55#8, 0x66#8] = 0x8D#8 ∧ crc [0x77#8, 0x88#8] = 0x56#8) :=
  ⟨rfl, ⟨rfl, rfl⟩, witness_page_a _ _ _ _ _ _ _ _, witness_page_b _ _ _ _ _ _, by decide⟩

/-- A page A whose last checksum does not fit, one whose first does not, and a page B of each kind. -/
theorem witness_RdsnStopsAtTheFirstBadChecksum :
    State.reset.params.snCrcCheck = true ∧
    ((∀ j : Nat, j < 3 → crc [[0x11#8, 0x72#8, 0x22#8, 0xE4#8, 0x33#8, 0x96#8, 0x44#8, 0xF8#8].getD (2 * j) 0#8] =
        [0x11#8, 0x72#8, 0x22#8, 0xE4#8, 0x33#8, 0x96#8, 0x44#8, 0xF8#8].getD (2 * j + 1) 0#8) ∧ crc [0x44#8] ≠ 0xF8#8) ∧
    crc [0x11#8] ≠ 0x73#8 ∧
    (∀ j : Nat, j < 4 → crc [goodPageA.getD (2 * j) 0#8] = goodPageA.getD (2 * j + 1) 0#8) ∧
    (crc [0x55#8, 0x66#8] ≠ 0x8C#8) ∧ (crc [0x55#8, 0x66#8] = 0x8D#8 ∧ crc [0x77#8, 0x88#8] ≠ 0x57#8) ∧
    (∃ evs, Delivers 32 (0 % 2 ^ 32) 8 ([0x11#8, 0x72#8, 0x22#8, 0xE4#8, 0x33#8, 0x96#8, 0x44#8, 0xF8#8].map some) []
      [0x11#8, 0x72#8, 0x22#8, 0xE4#8, 0x33#8, 0x96#8, 0x44#8, 0xF8#8] evs) ∧
    (∃ evs, Delivers 32 (0 % 2 ^ 32) 6 ([0x55#8, 0x66#8, 0x8D#8, 0x77#8, 0x88#8, 0x57#8].map some) []
      [0x55#8, 0x66#8, 0x8D#8, 0x77#8, 0x88#8, 0x57#8] evs) ∧
    Answered (serialRunning goodPageA [0x55#8, 0x66#8, 0x8D#8, 0x77#8, 0x88#8, 0x57#8]) 0 (goodPageA.map some) []
      ([0x55#8, 0x66#8, 0x8D#8, 0x77#8, 0x88#8, 0x57#8].map some ++ []) (0 :: ([] ++ [])) :=
  ⟨by decide, by decide, by decide, by decide, by decide, by decide, witness_page_a _ _ _ _ _ _ _ _, witness_page_b _ _ _ _ _ _,
    rfl, rfl⟩

/-- Page A that does not come, and page B that does not come after a good page A. -/
theorem witness_RdsnReportsTimeoutOfEitherPage :
    (TimesOut 32 (0 % 2 ^ 32) 8 [none] [100] [] [.av false, .now 100] ∧
      Answered (running 0x25000000#32 [none] [0, 100]) 0 [none] [100] [] []) ∧
    ((∃ evs, Delivers 32 (0 % 2 ^ 32) 8 (goodPageA.map some) [] goodPageA evs) ∧
      TimesOut 32 (7 % 2 ^ 32) 6 [none] [107] [] [.av false, .now 107] ∧
      Answered (running 0x25000000#32 (goodPageA.map some ++ [none]) [0, 7, 107]) 0 (goodPageA.map some) [] ([none] ++ [])
        (7 :: ([107] ++ [])) ∧
      ∀ j : Nat, j < 4 → crc [goodPageA.getD (2 * j) 0#8] = goodPageA.getD (2 * j + 1) 0#8) :=
  ⟨⟨.late 100 (by decide), rfl, rfl⟩, witness_page_a _ _ _ _ _ _ _ _, .late 107 (by decide), ⟨rfl, rfl⟩, by decide⟩

/-- Two accepted states that differ in what an earlier operation left. -/
theorem witness_ProtocolOperationsAreStateless :
    ∃ s1 s2 t1 t2 : State, s1 ≠ s2 ∧ s1.params = s2.params ∧ s1.rx = s2.rx ∧ s1.clock = s2.clock ∧ s1.inTransfer = false ∧
      s2.inTransfer = false ∧ s1.busy = true ∧ s2.busy = true ∧ s1.err = s2.err ∧ exec .meast s1 = .next t1 ∧
      exec .meast s2 = .next t2 ∧ t1.busy = false ∧ t1.err ≠ .timeout :=
  ⟨running 0x20000000#32 [some 0x64#8, some 0x8C#8, some 0xD1#8] [0],
    { running 0x20000000#32 [some 0x64#8, some 0x8C#8, some 0xD1#8] [0] with acc := 0x55#8, urd := 0x3A#8, held := true },
    _, _, by decide, rfl, rfl, rfl, rfl, rfl, rfl, rfl, rfl, rfl, rfl, rfl, by decide⟩

/-- The clause about ACC and CRCOK after RDSN: ended well, by a checksum of page A, and by the timeout of page B. -/
theorem witness_ProtocolOperationsAreStateless_rdsn :
    (serialRunning goodPageA goodPageB).params.snCrcCheck = true ∧
    (∃ t, exec .rdsn (serialRunning goodPageA goodPageB) = .next t ∧ t.busy = false ∧ t.err = .none) ∧
    (∃ t, exec .rdsn (serialRunning [0x11#8, 0x73#8, 0#8, 0#8, 0#8, 0#8, 0#8, 0#8] goodPageB) = .next t ∧ t.busy = false ∧
      t.err = .checksumMismatch ∧ t.page = .a) ∧
    (∃ t, exec .rdsn (running 0x25000000#32 (goodPageA.map some ++ [none]) [0, 7, 107]) = .next t ∧ t.busy = false ∧
      t.err = .timeout ∧ t.page = .b) :=
  ⟨rfl, ⟨_, rfl, by decide, by decide⟩, ⟨_, rfl, by decide, by decide, by decide⟩, ⟨_, rfl, by decide, by decide, by decide⟩⟩

/-- Every operation has a next state from an accepted state with its answers at hand. -/
theorem witness_RegistersChangeOnlyByTheirOperations :
    (∃ t, exec .rdsn (serialRunning goodPageA goodPageB) = .next t) ∧
    (∃ t, exec (.dect (.imm 0x648C#16)) (running 0x1000648C#32 [] []) = .next t) ∧
    (∃ t, exec (.xwr (.one 0xFE#8)) (running 0x0200FE00#32 [] []) = .next t) ∧
    (∃ t, exec (.crcv 0xD1#8) (running 0x0A0000D1#32 [] []) = .next t) :=
  ⟨⟨_, rfl⟩, ⟨_, rfl⟩, ⟨_, rfl⟩, ⟨_, rfl⟩⟩

/-- One operation for each error kind. -/
theorem witness_ErrorsLeaveTheirRecord :
    (running 0x20000000#32 [none] [0, 100]).inTransfer = false ∧ (running 0x20000000#32 [none] [0, 100]).busy = true ∧
    (∃ t, exec .meast (running 0x20000000#32 [none] [0, 100]) = .next t ∧ t.busy = false ∧ t.err = .timeout) ∧
    (∃ t, exec .meast (running 0x20000000#32 [some 0xFF#8, some 0xFF#8, some 0xFF#8] [0]) = .next t ∧ t.busy = false ∧
      t.err = .checksumMismatch) ∧
    (∃ t, exec (.rdur true) (running 0x23800000#32 [none] [0, 100]) = .next t ∧ t.busy = false ∧ t.err = .deviceAbsent) ∧
    (∃ t, exec (.dect .buffer) (running 0x10800000#32 [] []) = .next t ∧ t.busy = false ∧ t.err = .illegalOp) :=
  ⟨rfl, rfl, ⟨_, rfl, rfl, rfl⟩, ⟨_, rfl, rfl, by decide⟩, ⟨_, rfl, rfl, rfl⟩, ⟨_, rfl, rfl, rfl⟩⟩

theorem witness_HeldGatesNothing : ∃ t, exec .srst { running 0x22000000#32 [] [] with held := true } = .next t := ⟨_, rfl⟩

theorem witness_OperationsWithoutAReadCompleteAtOnce :
    readLength .a .srst = none ∧ readLength .a (.crcr 0 2) = none ∧ readLength .b (.dech .buffer) = none := by decide

theorem witness_HeldMirrorsTheLastBusPhase :
    (∃ t, exec (.setres 2#2) (running 0x24000002#32 [some 0x05#8] [0]) = .next t ∧ t.busy = false) ∧
    (∃ t, exec .meash (running 0x21000000#32 [none] [0, 100]) = .next t ∧ t.busy = false) ∧
    (∃ t, exec (.xfer (.one 0xE7#8) 1 false) (running 0x0101E700#32 [some 0x3A#8] [0]) = .next t ∧ t.busy = false) ∧
    (∃ t, exec (.rdur false) (running 0x23000000#32 [some 0x3A#8] [0]) = .next t ∧ t.busy = false) ∧
    (running 0x24000002#32 [some 0x05#8] [0]).busy = true :=
  ⟨⟨_, rfl, rfl⟩, ⟨_, rfl, rfl⟩, ⟨_, rfl, rfl⟩, ⟨_, rfl, rfl⟩, rfl⟩

end Sys2Proof.Tests
end

section
/-! What the operations of the bus have in common, said once: each runs `xfer` and concludes it (41_transfer.md R145, R146;
42_protocol.md R172 to R177), and a word that decodes is well formed (30_encoding.md R93). -/

namespace Sys2Proof.Machine

/-! ### The decoder yields well-formed instructions -/

theorem checked_wf {o : Option Instr} {i : Instr} (h : checked o = .ok i) : i.wf = true := by
  cases o with
  | none => simp [checked] at h
  | some j =>
    by_cases hj : j.wf = true
    · obtain rfl : j = i := by simpa [checked, hj] using h
      exact hj
    · simp [checked, hj] at h

/-- One row of the decoder: its instruction is well formed, or a later row decides. -/
theorem row_wf {matched : Bool} {o : Option Instr} {later : Except IllegalWord Instr} {i : Instr}
    (hlater : later = .ok i → i.wf = true) : (if matched then checked o else later) = .ok i → i.wf = true := by
  cases matched with
  | true => exact checked_wf
  | false => exact hlater

theorem decode_wf {w : Word} {i : Instr} : decode w = .ok i → i.wf = true := by
  unfold decode
  iterate 14 refine row_wf ?_
  split <;> nofun

/-- A read that a word encodes asks for 1 to 8 bytes (30_encoding.md R93, 42_protocol.md R172 to R177). -/
theorem readLength_bounds {w : Word} {i : Instr} {page : Page} {n : Nat} (hd : decode w = .ok i)
    (hl : readLength page i = some n) : 0 < n ∧ n ≤ 8 := by
  have hwf := decode_wf hd
  cases i <;> simp [readLength] at hl
  case xfer cmd rlen rel =>
    subst hl
    exact (Bool.and_eq_true_iff.1 hwf).imp of_decide_eq_true of_decide_eq_true
  case rdsn => cases page <;> simp at hl <;> omega
  all_goals omega

/-! ### How a transfer starts -/

theorem transfer_poll {n : Nat} {rel : Bool} {s : State} (hp : s.ph = .poll) : transfer n rel s = pollLoop n rel s.rx s := by
  simp [transfer, hp]

theorem transfer_stalled {n : Nat} {rel : Bool} {s : State} (hp : s.ph ≠ .poll) (hc : s.clock = []) :
    transfer n rel s = .pending s := by
  simp [transfer, hc]

theorem transfer_sampled {n : Nat} {rel : Bool} {s : State} (hp : s.ph ≠ .poll) {t : Nat} {ts : List Nat}
    (hc : s.clock = t :: ts) : transfer n rel s = pollLoop n rel (s.sampleStart t ts).rx (s.sampleStart t ts) := by
  simp [transfer, hc]

theorem transfer_cases {n : Nat} {rel : Bool} {s : State} {motive : Transfer → Prop}
    (poll : s.ph = .poll → motive (pollLoop n rel s.rx s)) (stalled : s.clock = [] → motive (.pending s))
    (sampled : ∀ t ts, s.clock = t :: ts → motive (pollLoop n rel (s.sampleStart t ts).rx (s.sampleStart t ts))) :
    motive (transfer n rel s) := by
  by_cases hp : s.ph = .poll
  · rw [transfer_poll hp]
    exact poll hp
  · cases hc : s.clock with
    | nil =>
      rw [transfer_stalled hp hc]
      exact stalled hc
    | cons t ts =>
      rw [transfer_sampled hp hc]
      exact sampled t ts hc

/-! ### How a transfer ends -/

/-- A transfer that ended did so by `readDone` or by `readTimedOut`. -/
def Transfer.Ended (n : Nat) (rel : Bool) : Transfer → Prop
  | .ok t => ∃ u : State, t = u.readDone n rel
  | .timeout t => ∃ u : State, t = u.readTimedOut
  | .pending _ => True

theorem pollLoop_ended (n : Nat) (rel : Bool) (s : State) : (pollLoop n rel s.rx s).Ended n rel := by
  refine pollLoop_induction (motive := fun _ r => r.Ended n rel) ?_ ?_ ?_ ?_ ?_ s
  · exact fun s _ => ⟨s, rfl⟩
  · exact fun _ _ _ => trivial
  · exact fun s l t ts _ _ _ _ => ⟨s.pollEmpty l t ts, rfl⟩
  · exact fun _ _ _ _ _ _ ih => ih
  · exact fun _ _ _ _ _ _ _ _ _ ih => ih

theorem transfer_ended (n : Nat) (rel : Bool) (s : State) : (transfer n rel s).Ended n rel :=
  transfer_cases (fun _ => pollLoop_ended n rel s) (fun _ => trivial) (fun t ts _ => pollLoop_ended n rel (s.sampleStart t ts))

theorem xfer_ended (cmd : List Byte) (n : Nat) (rel : Bool) (s : State) : (xfer cmd n rel s).Ended n rel :=
  transfer_ended n rel _

/-! ### What an operation makes of its transfer -/

/-- A transfer that waits stays as it is; a timed-out one goes on with `late`, a successful one with `good`. -/
def Transfer.conclude (late good : State → State) : Transfer → State
  | .pending s => s
  | .timeout s => late s
  | .ok s => good s

theorem exec_xfer (cmd : Cmd) (n : Nat) (rel : Bool) (s : State) : exec (.xfer cmd n rel) s =
    .next ((xfer (cmdBytes cmd) n rel s).conclude (·.finish .timeout) (·.finish .none)) := rfl

theorem exec_meast (s : State) : exec .meast s = .next (runMeasurement cmdTemperature decT s) := rfl

theorem exec_meash (s : State) : exec .meash s = .next (runMeasurement cmdHumidity decH s) := rfl

theorem exec_rdur (rel : Bool) (s : State) : exec (.rdur rel) s = .next (readUser rel concludeRdur s) := rfl

theorem exec_setres (code : BitVec 2) (s : State) :
    exec (.setres code) s = .next (readUser false (concludeSetres code) s) := rfl

theorem exec_rdsn (s : State) : exec .rdsn s = .next (readSerial (s.opening State.clearSerial)) := rfl

theorem runMeasurement_eq (cmd : List Byte) (dec : Half → Int) (s : State) : runMeasurement cmd dec s =
    (xfer cmd 3 true (s.opening State.clearReading)).conclude (·.finish .timeout) (concludeMeasurement dec) := rfl

theorem readUser_eq (rel : Bool) (conclude : Byte → State → State) (s : State) : readUser rel conclude s =
    (xfer cmdReadUser 1 rel s).conclude (conclude 0#8) (fun t => conclude t.rb[0] t) := rfl

theorem serialPageA_eq (s : State) :
    serialPageA s = (xfer cmdPageA 8 true s).conclude (·.finish .timeout) afterPageA := rfl

theorem serialPageB_eq (s : State) :
    serialPageB s = (xfer cmdPageB 6 true s).conclude (·.finish .timeout) concludeSerial := rfl

/-! ### What an operation does with the bytes it read -/

theorem concludeMeasurement_eq (dec : Half → Int) (s : State) : concludeMeasurement dec s =
    if validates [s.rb[0], s.rb[1]] s.rb[2] then
      ((s.validate [s.rb[0], s.rb[1]] s.rb[2]).setReading s.bufferRaw (dec s.bufferRaw)).finish .none
    else (s.validate [s.rb[0], s.rb[1]] s.rb[2]).finish .checksumMismatch := rfl

theorem concludeSerial_eq (s : State) : concludeSerial s =
    if (checkPage (pageBChecks s.rb) s).2 then
      { (checkPage (pageBChecks s.rb) s).1 with
        sn := reassemble (checkPage (pageBChecks s.rb) s).1.latch (checkPage (pageBChecks s.rb) s).1.rb }.finish .none
    else (checkPage (pageBChecks s.rb) s).1.finish .checksumMismatch := by
  unfold concludeSerial
  split <;> simp [*]

theorem afterPageA_eq (s : State) : afterPageA s =
    if (checkPage (pageAChecks s.rb) s).2 then serialPageB (checkPage (pageAChecks s.rb) s).1.latchPageA
    else (checkPage (pageAChecks s.rb) s).1.finish .checksumMismatch := by
  unfold afterPageA
  split <;> simp [*]

/-- Validations write ACC and CRCOK and nothing else (42_protocol.md R177). -/
theorem validateAll_writes (checks : List (List Byte × Byte)) (s : State) :
    ∃ a c, (validateAll checks s).1 = { s with acc := a, crcok := c } := by
  induction checks generalizing s with
  | nil => exact ⟨s.acc, s.crcok, rfl⟩
  | cons check rest ih =>
    obtain ⟨data, expected⟩ := check
    rw [validateAll]
    split
    · obtain ⟨a, c, h⟩ := ih (s.validate data expected)
      exact ⟨a, c, h⟩
    · exact ⟨_, _, rfl⟩

theorem checkPage_writes (checks : List (List Byte × Byte)) (s : State) :
    ∃ a c, (checkPage checks s).1 = { s with acc := a, crcok := c } := by
  unfold checkPage
  split
  · exact validateAll_writes checks s
  · exact ⟨s.acc, s.crcok, rfl⟩

end Sys2Proof.Machine
end

section
/-! The invariant (10_state.md R23, R26, R30, R33): an operation is either at work outside its reads or inside a read of `n`
bytes, each with what holds of the registers there; every piece of an operation leads from one of these to the other or to a
state that meets `Inv`. -/

namespace Sys2Proof.Machine

/-- The operation `i` runs and no read is under way: RB holds RLEN bytes, then zeros. -/
structure Working (i : Instr) (s : State) : Prop where
  width : 8 ≤ s.params.w ∧ s.params.w ≤ 255
  t0_lt : s.t0 < 2 ^ s.params.w
  busy : s.busy = true
  done : s.done = false
  op : decode s.op = .ok i
  outside : s.inTransfer = false
  rlen_le : s.rlen ≤ 8
  tail : ∀ (j : Nat) (h : j < 8), s.rlen ≤ j → s.rb[j] = 0#8

/-- The operation `i` runs and stands inside its read of `n` bytes: RB holds the bytes taken, then zeros. -/
structure Reading (i : Instr) (n : Nat) (s : State) : Prop where
  width : 8 ≤ s.params.w ∧ s.params.w ≤ 255
  t0_lt : s.t0 < 2 ^ s.params.w
  busy : s.busy = true
  done : s.done = false
  op : decode s.op = .ok i
  waits : s.ph = .req ∨ s.ph = .poll
  length : readLength s.page i = some n
  rlen : s.rlen = 0
  tail : ∀ (j : Nat) (h : j < 8), s.cnt ≤ j → s.rb[j] = 0#8
  req_none : s.ph = .req → s.cnt = 0
  cnt_le : s.cnt ≤ n

/-- The operation `i` runs, begun just now or waiting with bytes still missing. -/
def Runs (i : Instr) (s : State) : Prop := Working i s ∨ ∃ n, Reading i n s ∧ s.cnt < n

/-- What a transfer of the operation `i` leads to. -/
def Transfer.Sound (i : Instr) : Transfer → Prop
  | .ok t => Working i t
  | .timeout t => Working i t
  | .pending t => Inv t

/-! ### Between the invariant and a running operation -/

theorem Working.finish_inv {i : Instr} {s : State} (h : Working i s) {e : ErrKind} : Inv (s.finish e) where
  width := h.width
  busy_iff := by simp
  not_busy_done := by simp
  waits := .inl rfl
  rlen_le := h.rlen_le
  tail_zero := fun _ => h.tail
  running_tail := by simp
  req_none := by simp
  running := by simp
  t0_lt := h.t0_lt

theorem Reading.inv {i : Instr} {n : Nat} {s : State} (h : Reading i n s) (hc : s.cnt < n) : Inv s := by
  have hph : s.ph ≠ .idle := by rcases h.waits with hp | hp <;> simp [hp]
  exact
    { width := h.width
      busy_iff := by simp [h.busy, hph]
      not_busy_done := by simp [h.done]
      waits := .inr h.waits
      rlen_le := by simp [h.rlen]
      tail_zero := fun hp => absurd hp hph
      running_tail := fun _ => ⟨h.rlen, h.tail⟩
      req_none := h.req_none
      running := fun _ => ⟨i, n, h.op, h.length, hc, (readLength_bounds h.op h.length).2⟩
      t0_lt := h.t0_lt }

/-- A running operation stands inside a read (log 2). -/
theorem Inv.runs {s : State} (h : Inv s) (hb : s.busy = true) : ∃ i, decode s.op = .ok i ∧ Runs i s := by
  have hph := h.busy_iff.1 hb
  obtain ⟨i, n, hop, hlen, hc, -⟩ := h.running hph
  exact ⟨i, hop, .inr ⟨n,
    { width := h.width
      t0_lt := h.t0_lt
      busy := hb
      done := by simpa [hb] using h.not_busy_done
      op := hop
      waits := h.waits.resolve_left hph
      length := hlen
      rlen := (h.running_tail hph).1
      tail := (h.running_tail hph).2
      req_none := h.req_none
      cnt_le := hc.le }, hc⟩⟩

theorem Inv.ph_idle {s : State} (h : Inv s) (hb : s.busy = false) : s.ph = .idle := by
  by_contra hne
  simp [h.busy_iff.2 hne] at hb

/-- An accepted operation is at work (60_exceptions.md R227). -/
theorem Inv.accept_working {s : State} (h : Inv s) (hb : s.busy = false) {w : Word} {i : Instr} (hd : decode w = .ok i) :
    Working i (s.accept w (firstPhase i)) where
  width := h.width
  t0_lt := h.t0_lt
  busy := rfl
  done := rfl
  op := hd
  outside := by cases i <;> rfl
  rlen_le := h.rlen_le
  tail := h.tail_zero (h.ph_idle hb)

/-- An operation that reads nothing is never inside a read. -/
theorem Runs.working {i : Instr} {s : State} (h : Runs i s) (hl : readLength s.page i = none) : Working i s := by
  rcases h with hw | ⟨n, hr, -⟩
  · exact hw
  · simp [hr.length] at hl

theorem Reading.inTransfer {i : Instr} {n : Nat} {s : State} (h : Reading i n s) : s.inTransfer = true := by
  rcases h.waits with hp | hp <;> simp [State.inTransfer, hp]

/-! ### The transfer engine -/

theorem Working.beginRead {i : Instr} {s : State} (h : Working i s) {n : Nat} (hl : readLength s.page i = some n)
    (cmd : List Byte) (rel : Bool) : Reading i n (s.beginRead cmd n rel) :=
  { h with
    waits := .inl rfl
    length := hl
    rlen := rfl
    tail := fun j hj _ => zeros8_getElem j hj
    req_none := fun _ => rfl
    cnt_le := n.zero_le }

theorem Reading.sampleStart {i : Instr} {n : Nat} {s : State} (h : Reading i n s) (t : Nat) (ts : List Nat) :
    Reading i n (s.sampleStart t ts) :=
  { h with
    t0_lt := Nat.mod_lt t (Nat.two_pow_pos s.params.w)
    waits := .inr rfl
    req_none := nofun }

theorem Reading.takeByte {i : Instr} {n : Nat} {s : State} (h : Reading i n s) (hp : s.ph = .poll) (hc : s.cnt ≠ n)
    (b : Byte) (l : List (Option Byte)) : Reading i n (s.takeByte b l) :=
  { h with
    tail := fun j hj hcj => by
      have hlt : s.cnt < j := hcj
      simp only [State.takeByte_rb, Vector.getElem_setIfInBounds, if_neg hlt.ne]
      exact h.tail j hj hlt.le
    req_none := by simp [hp]
    cnt_le := by have := h.cnt_le; simp only [State.takeByte_cnt]; omega }

theorem Reading.pollEmpty {i : Instr} {n : Nat} {s : State} (h : Reading i n s) (l : List (Option Byte)) (t : Nat)
    (ts : List Nat) : Reading i n (s.pollEmpty l t ts) := { h with }

theorem Reading.readDone {i : Instr} {n : Nat} {s : State} (h : Reading i n s) (hc : s.cnt = n) (rel : Bool) :
    Working i (s.readDone n rel) :=
  { h with
    outside := rfl
    rlen_le := (readLength_bounds h.op h.length).2
    tail := hc ▸ h.tail }

theorem Reading.readTimedOut {i : Instr} {n : Nat} {s : State} (h : Reading i n s) : Working i s.readTimedOut :=
  { h with
    outside := rfl
    rlen_le := Nat.zero_le 8
    tail := fun j hj _ => zeros8_getElem j hj }

theorem pollLoop_sound {i : Instr} {n : Nat} {s : State} (rel : Bool) (h : Reading i n s) (hp : s.ph = .poll) :
    (pollLoop n rel s.rx s).Sound i := by
  revert h hp
  refine pollLoop_induction (motive := fun s r => Reading i n s → s.ph = .poll → r.Sound i) ?_ ?_ ?_ ?_ ?_ s
  · exact fun s hc h _ => h.readDone hc rel
  · exact fun s hc _ h _ => h.inv (lt_of_le_of_ne h.cnt_le hc)
  · exact fun s l t ts _ _ _ _ h _ => (h.pollEmpty l t ts).readTimedOut
  · exact fun s b l r hc _ ih h hp => ih (h.takeByte hp hc b l) hp
  · exact fun s l t ts r _ _ _ _ ih h hp => ih (h.pollEmpty l t ts) hp

theorem transfer_sound {i : Instr} {n : Nat} {s : State} (rel : Bool) (h : Reading i n s) (hc : s.cnt < n) :
    (transfer n rel s).Sound i :=
  transfer_cases (pollLoop_sound rel h) (fun _ => h.inv hc) (fun t ts _ => pollLoop_sound rel (h.sampleStart t ts) rfl)

/-- A read of a running operation, begun or gone on with. -/
theorem Runs.xfer_sound {i : Instr} {n : Nat} {s : State} (h : Runs i s) (hl : readLength s.page i = some n) (cmd : List Byte)
    (rel : Bool) : (xfer cmd n rel s).Sound i := by
  rcases h with hw | ⟨m, hr, hc⟩
  · simp only [xfer, hw.outside]
    exact transfer_sound rel (hw.beginRead hl cmd rel) (readLength_bounds hw.op hl).1
  · obtain rfl : m = n := Option.some.inj (hr.length.symm.trans hl)
    simp only [xfer, hr.inTransfer]
    exact transfer_sound rel hr hc

theorem Transfer.Sound.conclude_inv {i : Instr} {r : Transfer} (h : r.Sound i) {late good : State → State}
    (hlate : ∀ t, Working i t → Inv (late t)) (hgood : ∀ t, Working i t → Inv (good t)) : Inv (r.conclude late good) := by
  cases r with
  | ok t => exact hgood t h
  | timeout t => exact hlate t h
  | pending t => exact h

/-! ### The operations -/

/-- What an operation does once, when it starts, leaves it running. -/
theorem Runs.opening {i : Instr} {s : State} (h : Runs i s) {pre : State → State} (hpre : ∀ t, Working i t → Working i (pre t)) :
    Runs i (s.opening pre) := by
  rcases h with hw | ⟨n, hr, hc⟩
  · simpa [State.opening, hw.outside] using .inl (hpre s hw)
  · simpa [State.opening, hr.inTransfer] using .inr ⟨n, hr, hc⟩

theorem Working.setChecksum {i : Instr} {s : State} (h : Working i s) (a : Byte) (c : Bool) :
    Working i { s with acc := a, crcok := c } := { h with }

theorem Working.setUser {i : Instr} {s : State} (h : Working i s) (v w : Byte) :
    Working i { s with urd := v, urw := w } := { h with }

theorem Working.setSerial {i : Instr} {s : State} (h : Working i s) (sn : Bytes8) :
    Working i { s with sn := sn } := { h with }

theorem Working.validate {i : Instr} {s : State} (h : Working i s) (d : List Byte) (e : Byte) :
    Working i (s.validate d e) := h.setChecksum _ _

theorem Working.setReading {i : Instr} {s : State} (h : Working i s) (raw : Half) (v : Int) :
    Working i (s.setReading raw v) := { h with }

theorem Working.xwr {i : Instr} {s : State} (h : Working i s) (cmd : List Byte) : Working i (s.xwr cmd) := { h with }

theorem Working.checkPage {i : Instr} {s : State} (h : Working i s) (checks : List (List Byte × Byte)) :
    Working i (checkPage checks s).1 := by
  obtain ⟨a, c, e⟩ := checkPage_writes checks s
  rw [e]
  exact h.setChecksum a c

theorem Working.concludeMeasurement_inv {i : Instr} {s : State} (h : Working i s) (dec : Half → Int) :
    Inv (concludeMeasurement dec s) := by
  have hv := h.validate [s.rb[0], s.rb[1]] s.rb[2]
  rw [concludeMeasurement_eq]
  split
  · exact (hv.setReading _ _).finish_inv
  · exact hv.finish_inv

theorem Runs.runMeasurement_inv {i : Instr} {s : State} (h : Runs i s) (hl : ∀ page, readLength page i = some 3)
    (cmd : List Byte) (dec : Half → Int) : Inv (runMeasurement cmd dec s) := by
  rw [runMeasurement_eq]
  exact ((h.opening (pre := State.clearReading) fun _ hw => { hw with }).xfer_sound (hl _) cmd true).conclude_inv
    (fun _ hw => hw.finish_inv) (fun _ hw => hw.concludeMeasurement_inv dec)

theorem Runs.readUser_inv {i : Instr} {s : State} (h : Runs i s) (hl : readLength s.page i = some 1) (rel : Bool)
    {conclude : Byte → State → State} (hc : ∀ v t, Working i t → Inv (conclude v t)) : Inv (readUser rel conclude s) := by
  rw [readUser_eq]
  exact (h.xfer_sound hl cmdReadUser rel).conclude_inv (hc 0#8) (fun t => hc t.rb[0] t)

theorem Working.concludeSerial_inv {i : Instr} {s : State} (h : Working i s) : Inv (concludeSerial s) := by
  have hv := h.checkPage (pageBChecks s.rb)
  rw [concludeSerial_eq]
  split
  · exact (hv.setSerial _).finish_inv
  · exact hv.finish_inv

theorem Runs.serialPageB_inv {s : State} (h : Runs .rdsn s) (hp : s.page = .b) : Inv (serialPageB s) := by
  rw [serialPageB_eq]
  exact (h.xfer_sound (by rw [hp]; rfl) cmdPageB true).conclude_inv
    (fun _ hw => hw.finish_inv) (fun _ hw => hw.concludeSerial_inv)

theorem Working.afterPageA_inv {s : State} (h : Working .rdsn s) : Inv (afterPageA s) := by
  have hv := h.checkPage (pageAChecks s.rb)
  rw [afterPageA_eq]
  split
  · exact Runs.serialPageB_inv (.inl { hv with }) rfl
  · exact hv.finish_inv

theorem Runs.readSerial_inv {s : State} (h : Runs .rdsn s) : Inv (readSerial s) := by
  unfold readSerial
  split
  case h_1 hp =>
    rw [serialPageA_eq]
    exact (h.xfer_sound (by rw [hp]; rfl) cmdPageA true).conclude_inv
      (fun _ hw => hw.finish_inv) (fun _ hw => hw.afterPageA_inv)
  case h_2 hp => exact h.serialPageB_inv hp

theorem Working.decodeReading_inv {i : Instr} {s : State} (h : Working i s) (dec : Half → Int) (src : RawSource) :
    Inv (decodeReading dec src s) := by
  unfold decodeReading
  split
  · exact h.finish_inv
  · exact (h.setReading _ _).finish_inv

/-- A running operation leaves a state that meets the invariant, whether it ends or waits. -/
theorem Runs.exec_inv {i : Instr} {s t : State} (h : Runs i s) (he : exec i s = .next t) : Inv t := by
  cases i with
  | xfer cmd n rel =>
    cases he
    exact (h.xfer_sound rfl (cmdBytes cmd) rel).conclude_inv (fun _ hw => hw.finish_inv)
      (fun _ hw => hw.finish_inv)
  | xwr cmd =>
    cases he
    exact ((h.working rfl).xwr (cmdBytes cmd)).finish_inv
  | crci =>
    cases he
    exact ((h.working rfl).setChecksum _ s.crcok).finish_inv
  | crcb imm8 =>
    cases he
    exact ((h.working rfl).setChecksum _ s.crcok).finish_inv
  | crcv imm8 =>
    cases he
    exact ((h.working rfl).setChecksum s.acc _).finish_inv
  | crcr off n =>
    cases he
    have hw := h.working rfl
    split
    · exact hw.finish_inv
    · exact (hw.validate _ _).finish_inv
  | dect src =>
    cases he
    exact (h.working rfl).decodeReading_inv decT src
  | dech src =>
    cases he
    exact (h.working rfl).decodeReading_inv decH src
  | meast =>
    cases he
    exact h.runMeasurement_inv (fun _ => rfl) cmdTemperature decT
  | meash =>
    cases he
    exact h.runMeasurement_inv (fun _ => rfl) cmdHumidity decH
  | srst =>
    cases he
    exact ((h.working rfl).xwr cmdSoftReset).finish_inv
  | rdur rel =>
    cases he
    exact h.readUser_inv rfl rel fun v t hw => (hw.setUser v t.urw).finish_inv
  | setres code =>
    cases he
    exact h.readUser_inv rfl false fun v _ hw => ((hw.setUser v _).xwr _).finish_inv
  | rdsn =>
    cases he
    exact (h.opening (pre := State.clearSerial) fun _ hw => { hw with }).readSerial_inv

/-! ### The sequencer -/

theorem AtReset.inv {s : State} (h : AtReset s) (hw : 8 ≤ s.params.w ∧ s.params.w ≤ 255) : Inv s where
  width := hw
  busy_iff := by simp [h.busy, h.ph]
  not_busy_done := by simp [h.busy]
  waits := .inl h.ph
  rlen_le := by simp [h.rlen]
  tail_zero := fun _ j hj _ => h.rb j hj
  running_tail := fun hp => absurd h.ph hp
  req_none := by simp [h.ph]
  running := fun hp => absurd h.ph hp
  t0_lt := by simp [h.t0]

theorem Inv.issue_inv {s t : State} (h : Inv s) (hb : s.busy = false) {w : Word} (hs : issue w s = .next t) : Inv t := by
  unfold issue at hs
  split at hs
  case h_1 i hd => exact Runs.exec_inv (.inl (h.accept_working hb hd)) hs
  case h_2 =>
    cases hs
    exact { h with
      not_busy_done := by simp [hb]
      running := fun hne => absurd (h.ph_idle hb) hne }

theorem Inv.resume_inv {s t : State} (h : Inv s) (hb : s.busy = true) (hs : resume s = .next t) : Inv t := by
  obtain ⟨i, hd, hr⟩ := h.runs hb
  simp only [resume, hd] at hs
  exact hr.exec_inv hs

theorem Inv.proceed_inv {s t : State} (h : Inv s) (hs : proceed s = .next t) : Inv t := by
  unfold proceed at hs
  split at hs
  case isTrue hb => exact h.resume_inv hb hs
  case isFalse => cases hs; exact h

theorem Inv.hostWrite_inv {s t : State} (h : Inv s) {off : Nat} {v : Word} (hs : hostWrite off v s = .next t) : Inv t := by
  unfold hostWrite at hs
  split at hs
  case isTrue hw => exact h.issue_inv (by simpa using (Bool.and_eq_true_iff.1 hw).2) hs
  case isFalse => cases hs; exact h

theorem Inv.thenReset_inv {s t : State} (h : Inv s) {k : Nat} {run : State → Host.Outcome State Fault Refusal}
    (hs : thenReset k run s = .next t) : Inv t := by
  obtain ⟨s', -, rfl⟩ := thenReset_next_iff.1 hs
  exact (cutShort_resetAfter s s' k).values.inv h.width

/-- Whatever comes from outside, the block keeps the invariant. -/
theorem Inv.perform_inv {s t : State} (h : Inv s) {m : Input} (hs : perform m s = .next t) : Inv t := by
  cases m with
  | write off n v =>
    simp only [perform] at hs
    split at hs
    · exact h.hostWrite_inv hs
    · cases hs
  | read off n =>
    simp only [perform] at hs
    split at hs
    · cases hs; exact { h with }
    · cases hs
  | answers rx clk => exact Inv.proceed_inv (s := s.withAnswers rx clk) { h with } hs
  | reset => cases hs; exact (hardReset_atReset s).inv h.width
  | writeThenReset w k => exact h.thenReset_inv hs
  | answersThenReset rx clk k => exact Inv.thenReset_inv (s := s.withAnswers rx clk) { h with } hs

/-- Settles O24: a step performs an input, goes on with free answers, or does nothing, and each keeps the invariant. -/
theorem everyStepKeepsTheInvariant : Obligations.EveryStepKeepsTheInvariant := by
  intro s t h hs
  unfold step at hs
  split at hs
  case h_1 m rest _ => exact Inv.perform_inv (s := { s with script := rest }) { h with } hs
  case h_2 =>
    split at hs
    case isTrue hb => exact Inv.resume_inv (s := s.withFreeAnswers) { h with } hb hs
    case isFalse => cases hs; exact h

theorem reset_atReset : AtReset State.reset := by
  constructor <;> simp [State.reset, State.resetOf, Config.crcInit]

/-- Settles O23: reset leaves an idle block with an empty buffer. -/
theorem resetMeetsTheInvariant : Obligations.ResetMeetsTheInvariant :=
  reset_atReset.inv (by decide)

end Sys2Proof.Machine
end

section
/-! HELD (10_state.md R34): no operation tests it, so two runs that start with different HELD differ in nothing but HELD; and what
the last bus phase of an operation leaves in it (70_reset_and_hazards.md R265). -/

namespace Sys2Proof.Machine

/-! ### No operation tests HELD -/

/-- The state with another HELD. -/
def State.withHeld (s : State) (h : Bool) : State := { s with held := h }

@[simp] theorem State.withHeld_params (s : State) (h : Bool) : (s.withHeld h).params = s.params := rfl
@[simp] theorem State.withHeld_rb (s : State) (h : Bool) : (s.withHeld h).rb = s.rb := rfl
@[simp] theorem State.withHeld_rlen (s : State) (h : Bool) : (s.withHeld h).rlen = s.rlen := rfl
@[simp] theorem State.withHeld_page (s : State) (h : Bool) : (s.withHeld h).page = s.page := rfl
@[simp] theorem State.withHeld_rx (s : State) (h : Bool) : (s.withHeld h).rx = s.rx := rfl
@[simp] theorem State.withHeld_inTransfer (s : State) (h : Bool) : (s.withHeld h).inTransfer = s.inTransfer := rfl
@[simp] theorem State.withHeld_rawOperand (s : State) (h : Bool) (src : RawSource) :
    (s.withHeld h).rawOperand src = s.rawOperand src := by cases src <;> rfl

/-- The transfer as it stands, with another HELD. -/
def Transfer.withHeld (h : Bool) : Transfer → Transfer
  | .ok s => .ok (s.withHeld h)
  | .timeout s => .timeout (s.withHeld h)
  | .pending s => .pending (s.withHeld h)

/-- Another HELD before `f` changes at most HELD after it. -/
def HeldBlind (f : State → State) : Prop := ∀ s h, ∃ h', f (s.withHeld h) = (f s).withHeld h'

theorem pollLoop_withHeld (n : Nat) (rel : Bool) (s : State) (h : Bool) :
    ∃ h', pollLoop n rel s.rx (s.withHeld h) = (pollLoop n rel s.rx s).withHeld h' := by
  refine pollLoop_induction
    (motive := fun s r => ∃ h', pollLoop n rel s.rx (s.withHeld h) = r.withHeld h') ?_ ?_ ?_ ?_ ?_ s
  · intro s hc
    exact ⟨!rel, pollLoop_done n rel s.rx (s.withHeld h) hc⟩
  · intro s hc hw
    rcases hw with hr | ⟨l, hr, hk⟩
    · exact ⟨h, hr ▸ pollLoop_nil n rel (s.withHeld h) hc⟩
    · exact ⟨h, hr ▸ pollLoop_stalled n rel l (s.withHeld h) hc hk⟩
  · intro s l t ts hc hr hk he
    exact ⟨true, hr ▸ pollLoop_late n rel l (s.withHeld h) t ts hc hk he⟩
  · intro s b l r hc hr ih
    rw [hr, pollLoop_byte n rel b l (s.withHeld h) hc]
    exact ih
  · intro s l t ts r hc hr hk he ih
    rw [hr, pollLoop_early n rel l (s.withHeld h) t ts hc hk he]
    exact ih

theorem transfer_withHeld (n : Nat) (rel : Bool) (s : State) (h : Bool) :
    ∃ h', transfer n rel (s.withHeld h) = (transfer n rel s).withHeld h' := by
  by_cases hp : s.ph = .poll
  · rw [transfer_poll (s := s) hp, transfer_poll (s := s.withHeld h) hp]
    exact pollLoop_withHeld n rel s h
  · cases hk : s.clock with
    | nil =>
      rw [transfer_stalled (s := s) hp hk, transfer_stalled (s := s.withHeld h) hp hk]
      exact ⟨h, rfl⟩
    | cons t ts =>
      rw [transfer_sampled (s := s) hp hk, transfer_sampled (s := s.withHeld h) hp hk]
      exact pollLoop_withHeld n rel (s.sampleStart t ts) h

theorem xfer_withHeld (cmd : List Byte) (n : Nat) (rel : Bool) (s : State) (h : Bool) :
    ∃ h', xfer cmd n rel (s.withHeld h) = (xfer cmd n rel s).withHeld h' := by
  cases hs : s.inTransfer with
  | true =>
    simp only [xfer, State.withHeld_inTransfer, hs]
    exact transfer_withHeld n rel s h
  | false =>
    simp only [xfer, State.withHeld_inTransfer, hs]
    exact transfer_withHeld n rel (s.beginRead cmd n rel) true

theorem heldBlind_finish (e : ErrKind) : HeldBlind (·.finish e) := fun _ h => ⟨h, rfl⟩

/-- An operation made of a read and what follows it tests HELD only if what follows it does. -/
theorem heldBlind_conclude (cmd : List Byte) (n : Nat) (rel : Bool) {late good : State → State} (hlate : HeldBlind late)
    (hgood : HeldBlind good) : HeldBlind fun s => (xfer cmd n rel s).conclude late good := by
  intro s h
  obtain ⟨h', e⟩ := xfer_withHeld cmd n rel s h
  simp only [e]
  cases xfer cmd n rel s with
  | ok t => exact hgood t h'
  | timeout t => exact hlate t h'
  | pending t => exact ⟨h', rfl⟩

theorem HeldBlind.comp {f g : State → State} (hf : HeldBlind f) (hg : HeldBlind g) : HeldBlind fun s => f (g s) := by
  intro s h
  obtain ⟨h', e⟩ := hg s h
  simp only [e]
  exact hf (g s) h'

theorem HeldBlind.ite {c : State → Prop} [DecidablePred c] (hc : ∀ s h, c (s.withHeld h) = c s) {f g : State → State}
    (hf : HeldBlind f) (hg : HeldBlind g) : HeldBlind fun s => if c s then f s else g s := by
  intro s h
  by_cases hs : c s
  · have hs' : c (s.withHeld h) := (hc s h).mpr hs
    simpa only [if_pos hs, if_pos hs'] using hf s h
  · have hs' : ¬c (s.withHeld h) := (hc s h).symm ▸ hs
    simpa only [if_neg hs, if_neg hs'] using hg s h

theorem heldBlind_opening {pre : State → State} (hpre : HeldBlind pre) : HeldBlind (·.opening pre) :=
  HeldBlind.ite (fun _ _ => rfl) (fun _ h => ⟨h, rfl⟩) hpre

theorem validateAll_withHeld (checks : List (List Byte × Byte)) (s : State) (h : Bool) :
    validateAll checks (s.withHeld h) = ((validateAll checks s).1.withHeld h, (validateAll checks s).2) := by
  induction checks generalizing s with
  | nil => rfl
  | cons check rest ih =>
    obtain ⟨data, expected⟩ := check
    simp only [validateAll]
    split
    · exact ih (s.validate data expected)
    · rfl

theorem checkPage_withHeld (checks : List (List Byte × Byte)) (s : State) (h : Bool) :
    checkPage checks (s.withHeld h) = ((checkPage checks s).1.withHeld h, (checkPage checks s).2) := by
  cases hs : s.params.snCrcCheck with
  | true => simpa [checkPage, hs] using validateAll_withHeld checks s h
  | false => simp [checkPage, hs]

theorem heldBlind_concludeMeasurement (dec : Half → Int) : HeldBlind (concludeMeasurement dec) :=
  HeldBlind.ite (fun _ _ => rfl) (fun _ h => ⟨h, rfl⟩) (fun _ h => ⟨h, rfl⟩)

theorem heldBlind_runMeasurement (cmd : List Byte) (dec : Half → Int) : HeldBlind (runMeasurement cmd dec) :=
  (heldBlind_conclude cmd 3 true (heldBlind_finish .timeout) (heldBlind_concludeMeasurement dec)).comp
    (heldBlind_opening fun _ h => ⟨h, rfl⟩)

theorem heldBlind_readUser (rel : Bool) {conclude : Byte → State → State} (hc : ∀ v, HeldBlind (conclude v)) :
    HeldBlind (readUser rel conclude) :=
  heldBlind_conclude cmdReadUser 1 rel (hc 0#8) fun t => hc t.rb[0] t

/-- What follows a page tests HELD only if what follows good checksums does. -/
theorem heldBlind_afterPage (checks : Bytes8 → List (List Byte × Byte)) {good : State → State} (hgood : HeldBlind good) :
    HeldBlind fun s =>
      if (checkPage (checks s.rb) s).2 then good (checkPage (checks s.rb) s).1
      else (checkPage (checks s.rb) s).1.finish .checksumMismatch := by
  refine HeldBlind.ite (fun s h => ?_) (hgood.comp fun s h => ⟨h, ?_⟩)
    ((heldBlind_finish .checksumMismatch).comp fun s h => ⟨h, ?_⟩)
  all_goals rw [State.withHeld_rb, checkPage_withHeld]

theorem heldBlind_concludeSerial : HeldBlind concludeSerial := by
  rw [funext concludeSerial_eq]
  exact heldBlind_afterPage pageBChecks
    (good := fun s => { s with sn := reassemble s.latch s.rb }.finish .none) fun _ h => ⟨h, rfl⟩

theorem heldBlind_serialPageB : HeldBlind serialPageB :=
  heldBlind_conclude cmdPageB 6 true (heldBlind_finish .timeout) heldBlind_concludeSerial

theorem heldBlind_afterPageA : HeldBlind afterPageA := by
  rw [funext afterPageA_eq]
  exact heldBlind_afterPage pageAChecks (heldBlind_serialPageB.comp (g := State.latchPageA) fun _ h => ⟨h, rfl⟩)

theorem heldBlind_serialPageA : HeldBlind serialPageA :=
  heldBlind_conclude cmdPageA 8 true (heldBlind_finish .timeout) heldBlind_afterPageA

theorem heldBlind_readSerial : HeldBlind readSerial := by
  intro s h
  simp only [readSerial, State.withHeld_page]
  split
  · exact heldBlind_serialPageA s h
  · exact heldBlind_serialPageB s h

theorem heldBlind_decodeReading (dec : Half → Int) (src : RawSource) : HeldBlind (decodeReading dec src) := by
  intro s h
  refine ⟨h, ?_⟩
  simp only [decodeReading, State.withHeld_rawOperand]
  split <;> rfl

/-- Every operation leads on by a function of the state that does not test HELD. -/
theorem exec_heldBlind (i : Instr) : ∃ f : State → State, HeldBlind f ∧ ∀ s, exec i s = .next (f s) := by
  cases i with
  | xfer cmd n rel =>
    exact ⟨_, heldBlind_conclude (cmdBytes cmd) n rel (heldBlind_finish .timeout) (heldBlind_finish .none), exec_xfer cmd n rel⟩
  | xwr cmd => exact ⟨_, fun _ _ => ⟨false, rfl⟩, fun _ => rfl⟩
  | crci => exact ⟨_, fun _ h => ⟨h, rfl⟩, fun _ => rfl⟩
  | crcb imm8 => exact ⟨_, fun _ h => ⟨h, rfl⟩, fun _ => rfl⟩
  | crcv imm8 => exact ⟨_, fun _ h => ⟨h, rfl⟩, fun _ => rfl⟩
  | crcr off n =>
    exact ⟨_, HeldBlind.ite (c := fun s => s.rlen ≤ off + n) (fun _ _ => rfl) (heldBlind_finish .illegalOp)
      (fun _ h => ⟨h, rfl⟩), fun _ => rfl⟩
  | dect src => exact ⟨_, heldBlind_decodeReading decT src, fun _ => rfl⟩
  | dech src => exact ⟨_, heldBlind_decodeReading decH src, fun _ => rfl⟩
  | meast => exact ⟨_, heldBlind_runMeasurement cmdTemperature decT, exec_meast⟩
  | meash => exact ⟨_, heldBlind_runMeasurement cmdHumidity decH, exec_meash⟩
  | srst => exact ⟨_, fun _ _ => ⟨false, rfl⟩, fun _ => rfl⟩
  | rdur rel => exact ⟨_, heldBlind_readUser rel fun _ _ h => ⟨h, rfl⟩, exec_rdur rel⟩
  | setres code => exact ⟨_, heldBlind_readUser false fun _ _ _ => ⟨false, rfl⟩, exec_setres code⟩
  | rdsn => exact ⟨_, heldBlind_readSerial.comp (heldBlind_opening fun _ h => ⟨h, rfl⟩), exec_rdsn⟩

/-- Settles O58: no operation tests HELD, operation by operation. -/
theorem heldGatesNothing : Obligations.HeldGatesNothing := by
  intro i s t h hs
  obtain ⟨f, hf, e⟩ := exec_heldBlind i
  obtain ⟨h', eh⟩ := hf s h
  cases (e s).symm.trans hs
  exact ⟨h', (e (s.withHeld h)).trans (congrArg _ eh)⟩

/-! ### What the last bus phase leaves in HELD -/

/-- Once the operation has ended, HELD tells a timeout from every other end. -/
def HeldTellsTimeout (t : State) : Prop := t.busy = false → (t.held = true ↔ t.err = .timeout)

/-- What an operation that reads leaves once it has ended: it came by one of the two exits of its read. -/
theorem conclude_ended {cmd : List Byte} {n : Nat} {rel : Bool} {s : State} (hb : s.busy = true) {late good : State → State}
    {P : State → Prop} (hlate : ∀ u : State, u.busy = true → P (late u.readTimedOut))
    (hgood : ∀ u : State, u.busy = true → P (good (u.readDone n rel)))
    (ht : ((xfer cmd n rel s).conclude late good).busy = false) : P ((xfer cmd n rel s).conclude late good) := by
  have hk := (xfer_keeps cmd n rel s).busy.trans hb
  have he := xfer_ended cmd n rel s
  cases hx : xfer cmd n rel s with
  | ok t =>
    rw [hx] at hk he
    obtain ⟨u, rfl⟩ := he
    exact hgood u hk
  | timeout t =>
    rw [hx] at hk he
    obtain ⟨u, rfl⟩ := he
    exact hlate u hk
  | pending t =>
    rw [hx] at hk ht
    exact absurd (hk.symm.trans ht) (by decide)

theorem opening_busy (s : State) {pre : State → State} (hpre : (pre s).busy = s.busy) : (s.opening pre).busy = s.busy := by
  unfold State.opening
  split
  · rfl
  · exact hpre

theorem finish_timeout_heldTells (u : State) : HeldTellsTimeout (u.readTimedOut.finish .timeout) := by
  simp [HeldTellsTimeout]

theorem concludeMeasurement_heldTells (dec : Half → Int) (u : State) :
    HeldTellsTimeout (concludeMeasurement dec (u.readDone 3 true)) := by
  rw [concludeMeasurement_eq]
  split <;> simp [HeldTellsTimeout]

theorem runMeasurement_heldTells (cmd : List Byte) (dec : Half → Int) {s : State} (hb : s.busy = true) :
    HeldTellsTimeout (runMeasurement cmd dec s) := fun ht =>
  conclude_ended (P := HeldTellsTimeout) ((opening_busy s rfl).trans hb) (fun u _ => finish_timeout_heldTells u)
    (fun u _ => concludeMeasurement_heldTells dec u) ht ht

theorem concludeSerial_heldTells (u : State) : HeldTellsTimeout (concludeSerial (u.readDone 6 true)) := by
  obtain ⟨a, c, e⟩ := checkPage_writes (pageBChecks u.rb) (u.readDone 6 true)
  rw [concludeSerial_eq]
  split <;> simp [HeldTellsTimeout, e]

theorem serialPageB_heldTells {s : State} (hb : s.busy = true) : HeldTellsTimeout (serialPageB s) := fun ht =>
  conclude_ended (P := HeldTellsTimeout) hb (fun u _ => finish_timeout_heldTells u)
    (fun u _ => concludeSerial_heldTells u) ht ht

theorem afterPageA_heldTells {u : State} (hb : u.busy = true) : HeldTellsTimeout (afterPageA (u.readDone 8 true)) := by
  obtain ⟨a, c, e⟩ := checkPage_writes (pageAChecks u.rb) (u.readDone 8 true)
  rw [afterPageA_eq]
  split
  · exact serialPageB_heldTells (by simp [e, hb])
  · simp [HeldTellsTimeout, e]

theorem readSerial_heldTells {s : State} (hb : s.busy = true) : HeldTellsTimeout (readSerial s) := by
  unfold readSerial
  split
  · exact fun ht => conclude_ended (P := HeldTellsTimeout) hb (fun u _ => finish_timeout_heldTells u)
      (fun u hu => afterPageA_heldTells hu) ht ht
  · exact serialPageB_heldTells hb

/-- Settles O60: the operations without a read by their last write phase, the others by the two exits of their read. -/
theorem heldMirrorsTheLastBusPhase : Obligations.HeldMirrorsTheLastBusPhase := by
  intro i s t hb hs ht
  cases i with
  | xwr cmd =>
    cases hs
    simp
  | srst =>
    cases hs
    simp
  | setres code =>
    cases hs
    have := conclude_ended (P := fun t => t.held = false) hb (fun _ _ => rfl) (fun _ _ => rfl) ht
    exact ⟨fun _ => this, by simp, by simp, by simp⟩
  | meast =>
    cases hs
    simpa using runMeasurement_heldTells cmdTemperature decT hb ht
  | meash =>
    cases hs
    simpa using runMeasurement_heldTells cmdHumidity decH hb ht
  | rdsn =>
    cases hs
    simpa using readSerial_heldTells ((opening_busy s rfl).trans hb) ht
  | xfer cmd n rel =>
    cases hs
    have := conclude_ended (P := fun t => t.held = true ↔ t.err = .timeout ∨ rel = false) hb (by simp) (by simp) ht
    refine ⟨by simp, by simp, ?_, by simp⟩
    rintro _ _ _ ⟨⟩
    exact this
  | rdur rel =>
    cases hs
    have := conclude_ended (P := fun t => t.held = true ↔ t.rlen = 0 ∨ rel = false) hb (by simp [concludeRdur])
      (by simp [concludeRdur]) ht
    refine ⟨by simp, by simp, by simp, ?_⟩
    rintro _ ⟨⟩
    exact this
  | crci => simp
  | crcb imm8 => simp
  | crcv imm8 => simp
  | crcr off n => simp
  | dect src => simp
  | dech src => simp

end Sys2Proof.Machine
end

section
/-! Single steps: the word that starts an operation, and the host's accesses (10_state.md R21 to R39, 60_exceptions.md R227). -/

namespace Sys2Proof.Machine

/-! ### The step that takes an input -/

theorem step_input {s : State} {m : Input} {rest : List Input} (hs : s.script = m :: rest) :
    step s = perform m { s with script := rest } := by
  simp [step, hs]

theorem accessOk_word {off : Nat} (ha : off % 4 = 0) (hw : off < 64) : accessOk off 4 = true := by
  simp [accessOk, ha]
  omega

theorem step_write {s : State} {off : Nat} {v : Word} {rest : List Input} (hs : s.script = .write off 4 v :: rest)
    (ha : off % 4 = 0) (hw : off < 64) : step s = hostWrite off v { s with script := rest } := by
  rw [step_input hs]
  simp only [perform, accessOk_word ha hw, if_true]

theorem step_read {s : State} {off : Nat} {rest : List Input} (hs : s.script = .read off 4 :: rest)
    (ha : off % 4 = 0) (hw : off < 64) : step s = .next (State.hostRead { s with script := rest } off) := by
  rw [step_input hs]
  simp only [perform, accessOk_word ha hw, if_true]

/-- An idle block is read through the map of its registers (20_memory.md R63). -/
theorem step_read_idle {s : State} {off : Nat} {rest : List Input} (hb : s.busy = false)
    (hs : s.script = .read off 4 :: rest) (ha : off % 4 = 0) (hw : off < 64) :
    step s = .next { s with script := rest, hostReads := s.hostReads ++ [(off, s.register (off / 4))] } := by
  have hv : State.readValue { s with script := rest } off = s.register (off / 4) := if_neg (by simp [hb])
  rw [step_read hs ha hw, State.hostRead, hv, if_neg (by simp [hb])]

/-- A running block is read through what it shows while it runs (10_state.md R39). -/
theorem step_read_busy {s : State} {off : Nat} {rest : List Input} (hb : s.busy = true)
    (hs : s.script = .read off 4 :: rest) (ha : off % 4 = 0) (hw : off < 64) :
    step s = .next { s with
      script := rest
      hostReads := s.hostReads ++ [(off, s.busyRegister (Config.busyRead s.draws) (off / 4))]
      draws := s.draws + 1 } := by
  have hv : State.readValue { s with script := rest } off = s.busyRegister (Config.busyRead s.draws) (off / 4) :=
    if_pos hb
  rw [step_read hs ha hw, State.hostRead, hv, if_pos hb]

/-! ### Operation words -/

theorem firstPhase_write_or_post (i : Instr) : firstPhase i = .write ∨ firstPhase i = .post := by
  cases i <;> simp [firstPhase]

theorem issue_ok {w : Word} {i : Instr} (hd : decode w = .ok i) (s : State) :
    issue w s = exec i (s.accept w (firstPhase i)) := by
  simp only [issue, hd]

theorem decodeTableWord_some {w : Nat} {i : Instr} (h : decodeTableWord 32 w = some i) :
    decode (BitVec.ofNat 32 (w % 2 ^ 32)) = .ok i := by
  simp only [decodeTableWord, le_refl, if_true] at h
  split at h
  · rename_i hd
    rw [hd, Option.some.inj h]
  · cases h

/-- Settles O6: the write starts an operation, and `issue` accepts the word at its first phase. -/
theorem stepRunsTheDecodedOperation : Obligations.StepRunsTheDecodedOperation := by
  intro s w rest i hb hs hd
  refine ⟨firstPhase i, firstPhase_write_or_post i, ?_⟩
  have hstart : State.startsOperation { s with script := rest } 0 = true := by simp [State.startsOperation, hb]
  rw [step_write hs rfl (by decide), hostWrite, if_pos hstart, issue_ok hd]
  rfl

/-- Settles O7, by O6 at the state with the word placed. -/
theorem fetchWordIsTheNextOperation : Obligations.FetchWordIsTheNextOperation := by
  intro s w i h
  obtain ⟨ph, hph, e⟩ := stepRunsTheDecodedOperation (s.withFetchWord 32 w) _ s.script i rfl rfl (decodeTableWord_some h)
  refine ⟨ph, hph, e.trans ?_⟩
  rw [show BitVec.ofNat 32 (w % 2 ^ 32) = BitVec.ofNat 32 w from BitVec.eq_of_toNat_eq (by simp)]
  rfl

/-- Settles O10: such a write starts no operation. -/
theorem otherRegistersIgnoreWrites : Obligations.OtherRegistersIgnoreWrites := by
  intro s off w rest hs ha hpos hw
  have hstart : ¬State.startsOperation { s with script := rest } off = true := by simp [State.startsOperation, hpos.ne']
  rw [step_write hs ha hw, hostWrite, if_neg hstart]

/-! ### Words of the window, field by field -/

theorem put_toNat {n : Nat} (v : BitVec n) {lo : Nat} (h : n + lo ≤ 32) : (put v lo).toNat = v.toNat * 2 ^ lo := by
  have hv : v.toNat * 2 ^ lo < 2 ^ 32 :=
    calc v.toNat * 2 ^ lo < 2 ^ n * 2 ^ lo := Nat.mul_lt_mul_of_pos_right v.isLt (Nat.two_pow_pos lo)
      _ = 2 ^ (n + lo) := (Nat.pow_add 2 n lo).symm
      _ ≤ 2 ^ 32 := Nat.pow_le_pow_right (by decide) h
  rw [put, BitVec.toNat_shiftLeft, BitVec.toNat_setWidth_of_le (by omega), Nat.shiftLeft_eq, Nat.mod_eq_of_lt hv]

/-- A field put above the bits a word uses adds to the word. -/
theorem or_put_toNat {n : Nat} (x : Word) (v : BitVec n) {lo : Nat} (h : n + lo ≤ 32) (hx : x.toNat < 2 ^ lo) :
    (x ||| put v lo).toNat = x.toNat + v.toNat * 2 ^ lo := by
  rw [BitVec.toNat_or, put_toNat v h, Nat.or_comm, Nat.mul_comm, ← Nat.two_pow_add_eq_or_of_lt hx, Nat.add_comm]

theorem cfgWord_toNat (p : Params) : (cfgWord p).toNat = 0x40 + 100 * 256 + p.w % 2 ^ 8 * 2 ^ 16 := by
  have h : (put Config.addr 0 ||| put (BitVec.ofNat 8 Config.tmo) 8).toNat = 0x40 + 100 * 256 := rfl
  rw [cfgWord, or_put_toNat _ _ (by decide) (by rw [h]; decide), h, BitVec.toNat_ofNat]

theorem packStatus_toNat (busy done crcok held : Bool) (err : BitVec 3) (rlen : BitVec 4) :
    (packStatus busy done crcok held err rlen).toNat =
      busy.toNat + done.toNat * 2 + crcok.toNat * 4 + held.toNat * 8 + err.toNat * 2 ^ 4 + rlen.toNat * 2 ^ 8 := by
  have hflags : (put (BitVec.ofBool busy) 0 ||| put (BitVec.ofBool done) 1 ||| put (BitVec.ofBool crcok) 2 |||
      put (BitVec.ofBool held) 3).toNat = busy.toNat + done.toNat * 2 + crcok.toNat * 4 + held.toNat * 8 := by
    cases busy <;> cases done <;> cases crcok <;> cases held <;> rfl
  have hlt : busy.toNat + done.toNat * 2 + crcok.toNat * 4 + held.toNat * 8 < 16 := by
    have := busy.toNat_le
    have := done.toNat_le
    have := crcok.toNat_le
    have := held.toNat_le
    omega
  have herr := or_put_toNat _ err (lo := 4) (by decide) (hflags ▸ hlt)
  rw [hflags] at herr
  rw [packStatus, or_put_toNat _ rlen (by decide) (by rw [herr]; omega), herr]

theorem packBytes_toNat (b0 b1 b2 b3 : Byte) :
    (packBytes b0 b1 b2 b3).toNat = b0.toNat + b1.toNat * 2 ^ 8 + b2.toNat * 2 ^ 16 + b3.toNat * 2 ^ 24 := by
  have h0 : (put b0 0).toNat = b0.toNat := by simp [put_toNat b0 (lo := 0)]
  have h1 := or_put_toNat (put b0 0) b1 (lo := 8) (by decide) (by omega)
  have h2 := or_put_toNat _ b2 (lo := 16) (by decide) (by omega : (put b0 0 ||| put b1 8).toNat < 2 ^ 16)
  rw [packBytes, or_put_toNat _ b3 (by decide) (by omega), h2, h1, h0]

/-- Byte `j` of a packed word stands in bits `8 * j + 7 : 8 * j`. -/
theorem packBytes_extract (b0 b1 b2 b3 : Byte) {j : Nat} (hj : j < 4) :
    (packBytes b0 b1 b2 b3).extractLsb' (8 * j) 8 = #v[b0, b1, b2, b3][j] := by
  apply BitVec.eq_of_toNat_eq
  rw [BitVec.extractLsb'_toNat, packBytes_toNat, Nat.shiftRight_eq_div_pow]
  interval_cases j <;> simp <;> omega

/-! ### The buffers in the window -/

theorem register_rb_byte (s : State) {i : Nat} (hi : i < 8) :
    (s.register (4 + i / 4)).extractLsb' (8 * (i % 4)) 8 = s.rb[i] := by
  interval_cases i <;> exact packBytes_extract _ _ _ _ (by decide)

theorem register_sn_byte (s : State) {i : Nat} (hi : i < 8) :
    (s.register (6 + i / 4)).extractLsb' (8 * (i % 4)) 8 = s.sn[i] := by
  interval_cases i <;> exact packBytes_extract _ _ _ _ (by decide)

/-- The offsets 0x30..0x3C name no register (10_state.md R32). -/
theorem register_reserved (s : State) {i : Nat} (hi : 12 ≤ i) : s.register i = 0#32 := by
  obtain ⟨k, rfl⟩ := Nat.exists_eq_add_of_le' hi
  rfl

/-! ### The registers -/

theorem busyStatus_busy_done (v : Word) : (busyStatus v).getLsbD 0 = true ∧ (busyStatus v).getLsbD 1 = false := by
  simp only [busyStatus, packStatus, BitVec.getLsbD_or, Laws.put_getLsbD]
  simp

/-- Settles O12: register by register. -/
theorem idleReadReturnsTheRegister : Obligations.IdleReadReturnsTheRegister := by
  intro s off rest hb hs ha hw
  refine ⟨s.register (off / 4), step_read_idle hb hs ha hw, ?_, ?_, ?_, ?_, ?_, ?_, ?_, ?_⟩
  · rintro rfl
    rfl
  · rintro rfl
    exact BitVec.toNat_setWidth_of_le (by decide)
  · rintro rfl
    exact BitVec.toInt_signExtend_of_le (by decide)
  · rintro rfl
    have hd : (put s.urd 0).toNat = s.urd.toNat := by simp [put_toNat s.urd (lo := 0)]
    have hu := or_put_toNat (put s.urd 0) s.urw (lo := 8) (by decide) (by omega)
    rw [hd, Nat.add_comm] at hu
    exact hu
  · rintro rfl
    exact BitVec.toNat_setWidth_of_le (by decide)
  · rintro rfl
    exact BitVec.toNat_ofNat ..
  · rintro rfl
    exact cfgWord_toNat s.params
  · intro h
    exact register_reserved s (by omega)

/-- Settles O13: the fields of STATUS add up, each at its own power of two. -/
theorem statusHoldsItsFields : Obligations.StatusHoldsItsFields := by
  intro s rest hb hs
  refine ⟨s.register 1, step_read_idle hb hs rfl (by decide), ?_⟩
  change (packStatus s.busy s.done s.crcok s.held s.err.code (BitVec.ofNat 4 s.rlen)).toNat = _
  rw [packStatus_toNat, hb, BitVec.toNat_ofNat]
  cases s.err <;> simp [ErrKind.code] <;> omega

/-- Settles O14: each buffer fills two words of the window, four bytes a word. -/
theorem buffersReadLittleEndianByIndex : Obligations.BuffersReadLittleEndianByIndex := by
  intro s off rest hb hs ha _ hw
  refine ⟨s.register (off / 4), step_read_idle hb hs ha (by omega), fun i hi => ⟨?_, ?_⟩⟩
  · rintro rfl
    rw [show (0x10 + 4 * (i / 4)) / 4 = 4 + i / 4 by omega]
    exact register_rb_byte s hi
  · rintro rfl
    rw [show (0x18 + 4 * (i / 4)) / 4 = 6 + i / 4 by omega]
    exact register_sn_byte s hi

/-- Settles O15: the block answers by `busyRegister`, register by register. -/
theorem busyReadShowsBusyOpAndCfg : Obligations.BusyReadShowsBusyOpAndCfg := by
  intro s off rest hb hs ha hw
  refine ⟨s.busyRegister (Config.busyRead s.draws) (off / 4), step_read_busy hb hs ha hw, ?_, ?_, ?_⟩
  · rintro rfl
    rfl
  · rintro rfl
    exact busyStatus_busy_done _
  · rintro rfl
    exact cfgWord_toNat s.params

/-- Settles O19: the reset state is at the reset values. -/
theorem resetStateHasTheSpecValues : Obligations.ResetStateHasTheSpecValues := by
  obtain ⟨op, busy, done, crcok, held, err, rlen, rb, raw, val, sn, urd, urw, acc, t0, ph⟩ := reset_atReset
  exact ⟨op, busy, done, crcok, held, err, rlen, fun i h => ⟨rb i h, sn i h⟩, raw, val, urd, urw, acc, t0, ph, by decide⟩

end Sys2Proof.Machine
end

section
/-! The event history (20_memory.md R66, R60(d)): whatever a step does, it leaves the parameters and adds to the history calls of
one shape, said once (`ProperCalls`); the statements about the history follow from that shape. -/

namespace Sys2Proof.Machine

/-! ### The calls a step may add -/

/-- Bus calls in order: every address is the sensor's, and every `RD` stands directly after an `AV` answered true. -/
inductive ProperCalls : List Event → Prop where
  | none : ProperCalls []
  | call {e : Event} {evs : List Event} (address : ∀ a, e.address = some a → a = 0x40#7) (notRead : ∀ b, e ≠ .rd b)
      (rest : ProperCalls evs) : ProperCalls (e :: evs)
  | byte {evs : List Event} (b : Byte) (rest : ProperCalls evs) : ProperCalls (.av true :: .rd b :: evs)

theorem ProperCalls.append {l l' : List Event} (h : ProperCalls l) (h' : ProperCalls l') : ProperCalls (l ++ l') := by
  induction h with
  | none => exact h'
  | call address notRead _ ih => exact .call address notRead ih
  | byte b _ ih => exact .byte b ih

/-- A reset may come after any call, so also between an `AV` and its `RD` (70_reset_and_hazards.md R260). -/
theorem ProperCalls.take {l : List Event} (h : ProperCalls l) (k : Nat) : ProperCalls (l.take k) := by
  induction h generalizing k with
  | none => simpa using .none
  | call address notRead _ ih =>
    cases k with
    | zero => exact .none
    | succ k => exact .call address notRead (ih k)
  | byte b _ ih =>
    match k with
    | 0 => exact .none
    | 1 => exact .call nofun nofun .none
    | k + 2 => exact .byte b (ih k)

theorem ProperCalls.now {l : List Event} (h : ProperCalls l) (t : Nat) : ProperCalls (.now t :: l) := .call nofun nofun h

theorem writePhase_proper (cmd : List Byte) (stop : Bool) : ProperCalls (writePhase cmd stop) := by
  have bytes : ProperCalls (cmd.map .wb) := by
    induction cmd with
    | nil => exact .none
    | cons b cmd ih => exact .call nofun nofun ih
  exact .call (by simp [Event.address, Config.addr]) nofun (bytes.append (.call nofun nofun .none))

/-- `t` comes after `s`: the same parameters, and a history longer by proper calls. -/
structure Advances (s t : State) : Prop where
  params : t.params = s.params
  events : ∃ evs, t.events = s.events ++ evs ∧ ProperCalls evs

/-- A change that makes no bus call. -/
theorem Advances.quiet {s t : State} (params : t.params = s.params) (events : t.events = s.events) : Advances s t :=
  ⟨params, [], by simpa using events, .none⟩

theorem Advances.refl (s : State) : Advances s s := .quiet rfl rfl

theorem Advances.trans {s t u : State} (h : Advances s t) (h' : Advances t u) : Advances s u := by
  obtain ⟨hp, evs, he, hc⟩ := h
  obtain ⟨hp', evs', he', hc'⟩ := h'
  exact ⟨hp'.trans hp, evs ++ evs', by rw [he', he, List.append_assoc], hc.append hc'⟩

/-- A change that makes no bus call may come before. -/
theorem Advances.after {s t u : State} (h : Advances t u) (params : t.params = s.params) (events : t.events = s.events) :
    Advances s u := Advances.trans (.quiet params events) h

theorem Advances.finish {s t : State} (h : Advances s t) (e : ErrKind) : Advances s (t.finish e) := h.trans (.quiet rfl rfl)

/-! ### The transfer engine -/

theorem beginRead_advances (s : State) (cmd : List Byte) (n : Nat) (rel : Bool) : Advances s (s.beginRead cmd n rel) :=
  ⟨rfl, _, List.append_assoc .., (writePhase_proper cmd false).append
    (.call (by simp [Event.address, Config.addr]) nofun .none)⟩

theorem xwr_advances (s : State) (cmd : List Byte) : Advances s (s.xwr cmd) := ⟨rfl, _, rfl, writePhase_proper cmd true⟩

theorem sampleStart_advances (s : State) (t : Nat) (ts : List Nat) : Advances s (s.sampleStart t ts) :=
  ⟨rfl, _, rfl, ProperCalls.none.now _⟩

theorem takeByte_advances (s : State) (b : Byte) (l : List (Option Byte)) : Advances s (s.takeByte b l) :=
  ⟨rfl, _, rfl, .byte b .none⟩

theorem pollEmpty_advances (s : State) (l : List (Option Byte)) (t : Nat) (ts : List Nat) : Advances s (s.pollEmpty l t ts) :=
  ⟨rfl, _, rfl, .call nofun nofun (ProperCalls.none.now _)⟩

theorem pollLoop_advances (n : Nat) (rel : Bool) (s : State) : Advances s (pollLoop n rel s.rx s).state := by
  refine pollLoop_induction (motive := fun s r => Advances s r.state) ?_ ?_ ?_ ?_ ?_ s
  · exact fun _ _ => .quiet rfl rfl
  · exact fun s _ _ => .refl s
  · exact fun s l t ts _ _ _ _ => (pollEmpty_advances s l t ts).trans (.quiet rfl rfl)
  · exact fun s b l _ _ _ ih => (takeByte_advances s b l).trans ih
  · exact fun s l t ts _ _ _ _ _ ih => (pollEmpty_advances s l t ts).trans ih

theorem transfer_advances (n : Nat) (rel : Bool) (s : State) : Advances s (transfer n rel s).state :=
  transfer_cases (motive := fun r => Advances s r.state) (fun _ => pollLoop_advances n rel s) (fun _ => .refl s)
    (fun t ts _ => (sampleStart_advances s t ts).trans (pollLoop_advances n rel (s.sampleStart t ts)))

theorem xfer_advances (cmd : List Byte) (n : Nat) (rel : Bool) (s : State) : Advances s (xfer cmd n rel s).state := by
  unfold xfer
  split
  · exact transfer_advances n rel s
  · exact (beginRead_advances s cmd n rel).trans (transfer_advances n rel _)

/-! ### The operations -/

/-- What an operation made of a read and what follows it calls. -/
theorem conclude_advances (cmd : List Byte) (n : Nat) (rel : Bool) (s : State) {late good : State → State}
    (hlate : ∀ t, Advances t (late t)) (hgood : ∀ t, Advances t (good t)) :
    Advances s ((xfer cmd n rel s).conclude late good) := by
  have h := xfer_advances cmd n rel s
  cases hx : xfer cmd n rel s with
  | ok t =>
    rw [hx] at h
    exact h.trans (hgood t)
  | timeout t =>
    rw [hx] at h
    exact h.trans (hlate t)
  | pending t =>
    rw [hx] at h
    exact h

theorem finish_advances (e : ErrKind) (s : State) : Advances s (s.finish e) := .quiet rfl rfl

theorem opening_advances (s : State) {pre : State → State} (hpre : Advances s (pre s)) : Advances s (s.opening pre) := by
  unfold State.opening
  split
  · exact .refl s
  · exact hpre

theorem concludeMeasurement_advances (dec : Half → Int) (s : State) : Advances s (concludeMeasurement dec s) := by
  rw [concludeMeasurement_eq]
  split <;> exact .quiet rfl rfl

theorem runMeasurement_advances (cmd : List Byte) (dec : Half → Int) (s : State) : Advances s (runMeasurement cmd dec s) :=
  (opening_advances s (.quiet rfl rfl)).trans
    (conclude_advances cmd 3 true _ (finish_advances .timeout) (concludeMeasurement_advances dec))

theorem concludeSetres_advances (code : BitVec 2) (v : Byte) (s : State) : Advances s (concludeSetres code v s) :=
  Advances.after ((xwr_advances { s with urd := v, urw := withResolution v code } _).finish (absence v)) rfl rfl

theorem readUser_advances (rel : Bool) (s : State) {conclude : Byte → State → State}
    (hc : ∀ v t, Advances t (conclude v t)) : Advances s (readUser rel conclude s) :=
  conclude_advances cmdReadUser 1 rel s (hc 0#8) (fun t => hc t.rb[0] t)

theorem checkPage_advances (checks : List (List Byte × Byte)) (s : State) : Advances s (checkPage checks s).1 := by
  obtain ⟨a, c, e⟩ := checkPage_writes checks s
  rw [e]
  exact .quiet rfl rfl

theorem concludeSerial_advances (s : State) : Advances s (concludeSerial s) := by
  have hv := checkPage_advances (pageBChecks s.rb) s
  rw [concludeSerial_eq]
  split
  · exact hv.trans (.quiet rfl rfl)
  · exact hv.finish .checksumMismatch

theorem serialPageB_advances (s : State) : Advances s (serialPageB s) :=
  conclude_advances cmdPageB 6 true s (finish_advances .timeout) concludeSerial_advances

theorem afterPageA_advances (s : State) : Advances s (afterPageA s) := by
  have hv := checkPage_advances (pageAChecks s.rb) s
  rw [afterPageA_eq]
  split
  · exact hv.trans ((serialPageB_advances _).after rfl rfl)
  · exact hv.finish .checksumMismatch

theorem readSerial_advances (s : State) : Advances s (readSerial s) := by
  unfold readSerial
  split
  · exact conclude_advances cmdPageA 8 true s (finish_advances .timeout) afterPageA_advances
  · exact serialPageB_advances s

theorem decodeReading_advances (dec : Half → Int) (src : RawSource) (s : State) : Advances s (decodeReading dec src s) := by
  unfold decodeReading
  split <;> exact .quiet rfl rfl

/-- Whatever `run` answers comes after the state it was given. -/
def Advancing (run : State → Host.Outcome State Fault Refusal) : Prop := ∀ s t, run s = .next t → Advances s t

theorem exec_advancing (i : Instr) : Advancing (exec i) := by
  intro s t h
  cases i with
  | xfer cmd n rel =>
    cases h
    exact conclude_advances (cmdBytes cmd) n rel s (finish_advances .timeout) (finish_advances .none)
  | xwr cmd =>
    cases h
    exact (xwr_advances s (cmdBytes cmd)).finish .none
  | crci =>
    cases h
    exact .quiet rfl rfl
  | crcb imm8 =>
    cases h
    exact .quiet rfl rfl
  | crcv imm8 =>
    cases h
    exact .quiet rfl rfl
  | crcr off n =>
    cases h
    split <;> exact .quiet rfl rfl
  | dect src =>
    cases h
    exact decodeReading_advances decT src s
  | dech src =>
    cases h
    exact decodeReading_advances decH src s
  | meast =>
    cases h
    exact runMeasurement_advances cmdTemperature decT s
  | meash =>
    cases h
    exact runMeasurement_advances cmdHumidity decH s
  | srst =>
    cases h
    exact (xwr_advances s cmdSoftReset).finish .none
  | rdur rel =>
    cases h
    exact readUser_advances rel s fun _ _ => .quiet rfl rfl
  | setres code =>
    cases h
    exact readUser_advances false s (concludeSetres_advances code)
  | rdsn =>
    cases h
    exact (opening_advances s (.quiet rfl rfl)).trans (readSerial_advances _)

/-! ### The sequencer -/

theorem issue_advancing (w : Word) : Advancing (issue w) := by
  intro s t h
  unfold issue at h
  split at h
  case h_1 i _ => exact Advances.after (exec_advancing i _ t h) rfl rfl
  case h_2 =>
    cases h
    exact .quiet rfl rfl

theorem resume_advancing : Advancing resume := by
  intro s t h
  unfold resume at h
  split at h
  case h_1 i _ => exact exec_advancing i s t h
  case h_2 =>
    cases h
    exact finish_advances .illegalOp s

theorem proceed_advancing : Advancing proceed := by
  intro s t h
  unfold proceed at h
  split at h
  · exact resume_advancing s t h
  · cases h
    exact .refl s

theorem hostWrite_advancing (off : Nat) (v : Word) : Advancing (hostWrite off v) := by
  intro s t h
  unfold hostWrite at h
  split at h
  · exact issue_advancing v s t h
  · cases h
    exact .refl s

/-- A reset inside an operation keeps the calls made so far (70_reset_and_hazards.md R260). -/
theorem cutShort_advances {s s' : State} (h : Advances s s') (k : Nat) : Advances s (s.cutShort k s') := by
  obtain ⟨-, evs, he, hc⟩ := h
  exact ⟨rfl, evs.take k, by simp [he], hc.take k⟩

theorem thenReset_advancing (k : Nat) {run : State → Host.Outcome State Fault Refusal} (hrun : Advancing run) :
    Advancing (thenReset k run) := by
  intro s t h
  obtain ⟨s', hs', rfl⟩ := thenReset_next_iff.1 h
  exact cutShort_advances (hrun s s' hs') k

theorem perform_advancing (m : Input) : Advancing (perform m) := by
  intro s t h
  cases m with
  | write off n v =>
    simp only [perform] at h
    split at h
    · exact hostWrite_advancing off v s t h
    · cases h
  | read off n =>
    simp only [perform] at h
    split at h
    · cases h
      exact .quiet rfl rfl
    · cases h
  | answers rx clk => exact Advances.after (proceed_advancing (s.withAnswers rx clk) t h) rfl rfl
  | reset =>
    cases h
    exact .quiet rfl rfl
  | writeThenReset w k => exact thenReset_advancing k (hostWrite_advancing 0 w) s t h
  | answersThenReset rx clk k =>
    exact Advances.after (thenReset_advancing k proceed_advancing (s.withAnswers rx clk) t h) rfl rfl

theorem step_advancing : Advancing step := by
  intro s t h
  unfold step at h
  split at h
  case h_1 m rest _ => exact Advances.after (perform_advancing m { s with script := rest } t h) rfl rfl
  case h_2 =>
    split at h
    · exact Advances.after (resume_advancing s.withFreeAnswers t h) rfl rfl
    · cases h
      exact .refl s

/-! ### What follows for the history -/

/-- `ReadsFollowAvailable` of a history, one call at a time. -/
def ReadsFollow (l : List Event) : Prop :=
  ∀ before after b, l = before ++ Event.rd b :: after → ∃ before', before = before' ++ [Event.av true]

theorem readsFollowAvailable_iff (s : State) : ReadsFollowAvailable s ↔ ReadsFollow s.events := Iff.rfl

/-- A call at the end of the history keeps the property if it is no `RD`, or directly after an `AV` answered true. -/
theorem ReadsFollow.concat {l : List Event} (h : ReadsFollow l) {e : Event}
    (he : ∀ b, e = .rd b → ∃ l', l = l' ++ [Event.av true]) : ReadsFollow (l ++ [e]) := by
  intro before after b hl
  rcases List.eq_nil_or_concat after with rfl | ⟨after', e', rfl⟩
  · obtain ⟨rfl, heq⟩ := List.append_inj' hl rfl
    exact he b (List.cons.inj heq).1
  · have hl' : l ++ [e] = (before ++ Event.rd b :: after') ++ [e'] := by simpa using hl
    exact h before after' b (List.append_inj' hl' rfl).1

theorem ReadsFollow.append {evs : List Event} (hc : ProperCalls evs) {l : List Event} (h : ReadsFollow l) :
    ReadsFollow (l ++ evs) := by
  induction hc generalizing l with
  | none => simpa using h
  | call _ notRead _ ih => simpa using ih (h.concat fun b hb => absurd hb (notRead b))
  | byte b _ ih =>
    have hav : ReadsFollow (l ++ [Event.av true]) := h.concat nofun
    simpa using ih (hav.concat fun _ _ => ⟨l, rfl⟩)

theorem ProperCalls.address {evs : List Event} (h : ProperCalls evs) :
    ∀ e ∈ evs, ∀ a, e.address = some a → a = 0x40#7 := by
  induction h with
  | none => simp
  | call address _ _ ih => exact List.forall_mem_cons.2 ⟨address, ih⟩
  | byte b _ ih => exact List.forall_mem_cons.2 ⟨nofun, List.forall_mem_cons.2 ⟨nofun, ih⟩⟩

/-- Settles O26: the calls a step adds are proper, and each is appended to a history in which every `RD` follows its `AV`. -/
theorem readsFollowAnAvailableAnswer : Obligations.ReadsFollowAnAvailableAnswer := by
  intro s t hs h
  obtain ⟨-, evs, he, hc⟩ := step_advancing s t h
  rw [readsFollowAvailable_iff] at hs ⊢
  rw [he]
  exact hs.append hc

/-- Settles O25: the calls a step adds name no other address. -/
theorem onlyTheSensorIsAddressed : Obligations.OnlyTheSensorIsAddressed := by
  intro s t hs h
  obtain ⟨-, evs, he, hc⟩ := step_advancing s t h
  intro e hmem
  rw [he] at hmem
  exact (List.mem_append.1 hmem).elim (hs e) (hc.address e)

/-- Settles O27: what a step adds stands behind the history it found. -/
theorem historyOnlyGrowsAndCfgIsConstant : Obligations.HistoryOnlyGrowsAndCfgIsConstant := by
  intro s t h
  obtain ⟨hp, evs, he, -⟩ := step_advancing s t h
  exact ⟨hp, evs, he⟩

end Sys2Proof.Machine
end

section
/-! Answers of the environment as inputs (20_memory.md R66, R69, R70; log 2): an operation left waiting goes on with further answers
as if it had had them from the start; and the accesses the interface does not have (R62). -/

namespace Sys2Proof.Machine

/-! ### Operations given their answers in two parts -/

/-- Where `f` leaves a state that waits, `f` of it with further answers is `f` with all the answers at once. -/
def Resumes (f : State → State) : Prop := ∀ (s : State) (rx : List (Option Byte)) (clk : List Nat), (f s).busy = true →
  (f s).inTransfer = true ∧ f ((f s).withAnswers rx clk) = f (s.withAnswers rx clk)

/-- An operation that completes at once never waits. -/
theorem resumes_of_ends {f : State → State} (h : ∀ s, (f s).busy = false) : Resumes f := fun s _ _ hb => by
  simp [h s] at hb

/-- A read whose outcome is concluded at once waits only inside the read. -/
theorem resumes_conclude (cmd : List Byte) (n : Nat) (rel : Bool) {late good : State → State}
    (hlate : ∀ t, (late t).busy = false) (hgood : ∀ t, (good t).busy = false) :
    Resumes fun s => (xfer cmd n rel s).conclude late good := by
  intro s rx clk hb
  have h := xfer_withAnswers cmd n rel rx clk s
  cases hx : xfer cmd n rel s with
  | ok t => simp [hx, Transfer.conclude, hgood t] at hb
  | timeout t => simp [hx, Transfer.conclude, hlate t] at hb
  | pending t =>
    rw [hx] at h
    obtain ⟨ht, he⟩ := h
    simp only [hx]
    exact ⟨ht, congrArg (Transfer.conclude late good) he.symm⟩

/-- What an operation does once, when it starts, it does not do again when it goes on. -/
theorem Resumes.opening {f : State → State} (hf : Resumes f) {pre : State → State}
    (hpre : ∀ s rx clk, pre (s.withAnswers rx clk) = (pre s).withAnswers rx clk) : Resumes fun s => f (s.opening pre) := by
  intro s rx clk hb
  obtain ⟨ht, he⟩ := hf (s.opening pre) rx clk hb
  have hwaits : ((f (s.opening pre)).withAnswers rx clk).opening pre = (f (s.opening pre)).withAnswers rx clk := if_pos ht
  have hstart : (s.withAnswers rx clk).opening pre = (s.opening pre).withAnswers rx clk := by
    cases hs : s.inTransfer with
    | true =>
      have hs' : (s.withAnswers rx clk).inTransfer = true := hs
      simp only [State.opening, hs, hs', if_true]
    | false =>
      have hs' : (s.withAnswers rx clk).inTransfer = false := hs
      simpa [State.opening, hs, hs'] using hpre s rx clk
  exact ⟨ht, by simp only [hwaits, hstart, he]⟩

theorem concludeMeasurement_ends (dec : Half → Int) (s : State) : (concludeMeasurement dec s).busy = false := by
  rw [concludeMeasurement_eq]
  split <;> rfl

theorem resumes_runMeasurement (cmd : List Byte) (dec : Half → Int) : Resumes (runMeasurement cmd dec) :=
  (resumes_conclude cmd 3 true (fun _ => rfl) (concludeMeasurement_ends dec)).opening (pre := State.clearReading) fun _ _ _ => rfl

theorem resumes_readUser (rel : Bool) {conclude : Byte → State → State} (hc : ∀ v t, (conclude v t).busy = false) :
    Resumes (readUser rel conclude) :=
  resumes_conclude cmdReadUser 1 rel (hc 0#8) (fun t => hc t.rb[0] t)

/-! ### RDSN, which may wait in either of its two reads -/

theorem validateAll_withAnswers (checks : List (List Byte × Byte)) (s : State) (rx : List (Option Byte)) (clk : List Nat) :
    validateAll checks (s.withAnswers rx clk) = ((validateAll checks s).1.withAnswers rx clk, (validateAll checks s).2) := by
  induction checks generalizing s with
  | nil => rfl
  | cons check rest ih =>
    obtain ⟨data, expected⟩ := check
    simp only [validateAll]
    split
    · exact ih (s.validate data expected)
    · rfl

theorem checkPage_withAnswers (checks : List (List Byte × Byte)) (s : State) (rx : List (Option Byte)) (clk : List Nat) :
    checkPage checks (s.withAnswers rx clk) = ((checkPage checks s).1.withAnswers rx clk, (checkPage checks s).2) := by
  cases hs : s.params.snCrcCheck with
  | true => simpa [checkPage, hs] using validateAll_withAnswers checks s rx clk
  | false => simp [checkPage, hs]

theorem concludeSerial_ends (s : State) : (concludeSerial s).busy = false := by
  rw [concludeSerial_eq]
  split <;> rfl

theorem concludeSerial_page (s : State) : (concludeSerial s).page = s.page := by
  obtain ⟨a, c, e⟩ := checkPage_writes (pageBChecks s.rb) s
  rw [concludeSerial_eq]
  split <;> simp [e]

theorem resumes_serialPageB : Resumes serialPageB := resumes_conclude cmdPageB 6 true (fun _ => rfl) concludeSerial_ends

theorem serialPageB_page (s : State) : (serialPageB s).page = s.page := by
  have hk := (xfer_keeps cmdPageB 6 true s).page
  rw [serialPageB_eq]
  cases hx : xfer cmdPageB 6 true s with
  | ok t => simpa [Transfer.conclude, concludeSerial_page, hx] using hk
  | timeout t => simpa [Transfer.conclude, hx] using hk
  | pending t => simpa [Transfer.conclude, hx] using hk

theorem readSerial_pageA {s : State} (h : s.page = .a) : readSerial s = serialPageA s := by simp [readSerial, h]

theorem readSerial_pageB {s : State} (h : s.page = .b) : readSerial s = serialPageB s := by simp [readSerial, h]

/-- An RDSN that waits in page B goes on there, whatever it was that led to page B. -/
theorem readSerial_serialPageB {s : State} (h : s.page = .b) (rx : List (Option Byte)) (clk : List Nat)
    (hb : (serialPageB s).busy = true) :
    (serialPageB s).inTransfer = true ∧ readSerial ((serialPageB s).withAnswers rx clk) = serialPageB (s.withAnswers rx clk) := by
  have hp : ((serialPageB s).withAnswers rx clk).page = .b := (serialPageB_page s).trans h
  rw [readSerial_pageB hp]
  exact resumes_serialPageB s rx clk hb

/-- The same where page A has just arrived: only good checksums lead to page B. -/
theorem readSerial_afterPageA (s : State) (rx : List (Option Byte)) (clk : List Nat) (hb : (afterPageA s).busy = true) :
    (afterPageA s).inTransfer = true ∧ readSerial ((afterPageA s).withAnswers rx clk) = afterPageA (s.withAnswers rx clk) := by
  cases hc : (checkPage (pageAChecks s.rb) s).2 with
  | true =>
    have e : afterPageA s = serialPageB (checkPage (pageAChecks s.rb) s).1.latchPageA := by simp [afterPageA_eq, hc]
    have e' : afterPageA (s.withAnswers rx clk) =
        serialPageB ((checkPage (pageAChecks s.rb) s).1.latchPageA.withAnswers rx clk) := by
      simp only [afterPageA_eq, State.withAnswers_rb, checkPage_withAnswers, hc, if_true]
      rfl
    rw [e] at hb
    rw [e, e']
    exact readSerial_serialPageB rfl rx clk hb
  | false => simp [afterPageA_eq, hc] at hb

theorem resumes_readSerial : Resumes readSerial := by
  intro s rx clk hb
  cases hp : s.page with
  | b =>
    have hp' : (s.withAnswers rx clk).page = .b := hp
    rw [readSerial_pageB hp] at hb
    rw [readSerial_pageB hp, readSerial_pageB hp']
    exact readSerial_serialPageB hp rx clk hb
  | a =>
    have hp' : (s.withAnswers rx clk).page = .a := hp
    have hk := (xfer_keeps cmdPageA 8 true s).page.trans hp
    have h := xfer_withAnswers cmdPageA 8 true rx clk s
    rw [readSerial_pageA hp, serialPageA_eq] at hb
    rw [readSerial_pageA hp, readSerial_pageA hp', serialPageA_eq, serialPageA_eq]
    cases hx : xfer cmdPageA 8 true s with
    | ok t =>
      rw [hx] at h hb
      rw [h]
      exact readSerial_afterPageA t rx clk hb
    | timeout t => simp [hx, Transfer.conclude] at hb
    | pending t =>
      rw [hx] at h hk
      obtain ⟨ht, he⟩ := h
      have hpt : (t.withAnswers rx clk).page = .a := hk
      rw [he, ← serialPageA_eq]
      exact ⟨ht, readSerial_pageA hpt⟩

/-! ### Every operation -/

theorem decodeReading_ends (dec : Half → Int) (src : RawSource) (s : State) : (decodeReading dec src s).busy = false := by
  unfold decodeReading
  split <;> rfl

/-- Every operation leads on by a function of the state that goes on where it waits. -/
theorem exec_resumes (i : Instr) : ∃ f : State → State, Resumes f ∧ ∀ s, exec i s = .next (f s) := by
  cases i with
  | xfer cmd n rel => exact ⟨_, resumes_conclude (cmdBytes cmd) n rel (fun _ => rfl) (fun _ => rfl), exec_xfer cmd n rel⟩
  | xwr cmd => exact ⟨_, resumes_of_ends fun _ => rfl, fun _ => rfl⟩
  | crci => exact ⟨_, resumes_of_ends fun _ => rfl, fun _ => rfl⟩
  | crcb imm8 => exact ⟨_, resumes_of_ends fun _ => rfl, fun _ => rfl⟩
  | crcv imm8 => exact ⟨_, resumes_of_ends fun _ => rfl, fun _ => rfl⟩
  | crcr off n => exact ⟨_, resumes_of_ends fun s => by split <;> rfl, fun _ => rfl⟩
  | dect src => exact ⟨_, resumes_of_ends (decodeReading_ends decT src), fun _ => rfl⟩
  | dech src => exact ⟨_, resumes_of_ends (decodeReading_ends decH src), fun _ => rfl⟩
  | meast => exact ⟨_, resumes_runMeasurement cmdTemperature decT, exec_meast⟩
  | meash => exact ⟨_, resumes_runMeasurement cmdHumidity decH, exec_meash⟩
  | srst => exact ⟨_, resumes_of_ends fun _ => rfl, fun _ => rfl⟩
  | rdur rel => exact ⟨_, resumes_readUser rel fun _ _ => rfl, exec_rdur rel⟩
  | setres code => exact ⟨_, resumes_readUser false fun _ _ => rfl, exec_setres code⟩
  | rdsn => exact ⟨_, resumes_readSerial.opening (pre := State.clearSerial) fun _ _ _ => rfl, exec_rdsn⟩

/-- Settles O41: an operation that waits goes on from where it waits, operation by operation. -/
theorem splittingTheAnswersChangesNothing : Obligations.SplittingTheAnswersChangesNothing := by
  intro i s m rx clk _ hm hb
  obtain ⟨f, hf, e⟩ := exec_resumes i
  obtain rfl : f s = m := Host.Outcome.next.inj ((e s).symm.trans hm)
  obtain ⟨-, hfs⟩ := hf s rx clk hb
  exact (e ((f s).withAnswers rx clk)).trans ((congrArg Host.Outcome.next hfs).trans (e (s.withAnswers rx clk)).symm)

/-! ### The step that takes answers, and the accesses that are refused -/

theorem step_answers {s : State} {rx : List (Option Byte)} {clk : List Nat} {rest : List Input}
    (hs : s.script = .answers rx clk :: rest) :
    step s = proceed { s with script := rest, rx := s.rx ++ rx, clock := s.clock ++ clk } := step_input hs

/-- Settles O8: answers make a running operation go on, from the word latched in OP. -/
theorem answersGoToTheRunningOperation : Obligations.AnswersGoToTheRunningOperation := by
  intro s rx clk rest i hs
  rw [step_answers hs]
  constructor
  · intro hb hd
    simp only [proceed, hb, if_true, resume, hd]
  · intro hb
    simp [proceed, hb]

/-- An access is refused exactly where it is not of one aligned word inside the window (20_memory.md R62). -/
theorem accessOk_eq_false {off n : Nat} : accessOk off n = false ↔ n ≠ 4 ∨ off % 4 ≠ 0 ∨ 64 ≤ off := by
  simp [accessOk]
  omega

/-- Settles O11: a refused access is named with its offset and size, be it a write or a read. -/
theorem accessOutsideTheInterfaceIsRefused : Obligations.AccessOutsideTheInterfaceIsRefused := by
  intro s off n w rest h
  have hno := accessOk_eq_false.2 h
  constructor
  · intro hs
    simp [step_input hs, perform, hno]
  · intro hs
    simp [step_input hs, perform, hno]

end Sys2Proof.Machine
end

section
/-! Encoding (30_encoding.md R90 to R98): the fields of a word, the words of each format, the rows of the opcode map, and the round
trip of the decoder and the encoder, from which the decoder's domain follows. -/

namespace Sys2Proof.Machine

/-! ### Fields and their places -/

@[simp] theorem field_or (x y : Word) (lo len : Nat) : field (x ||| y) lo len = field x lo len ||| field y lo len :=
  BitVec.extractLsb'_or

theorem field_and (x y : Word) (lo len : Nat) : field (x &&& y) lo len = field x lo len &&& field y lo len :=
  BitVec.extractLsb'_and

@[simp] theorem field_zero (lo len : Nat) : field 0#32 lo len = 0#len := by simp [field]

theorem field_toNat (w : Word) (lo len : Nat) : (field w lo len).toNat = w.toNat / 2 ^ lo % 2 ^ len := by
  rw [field, BitVec.extractLsb'_toNat, Nat.shiftRight_eq_div_pow]

/-- `rlen` of XFER, as the opcode map's constraint reads it (30_encoding.md R93). -/
theorem rlen_toNat (w : Word) : (field w 16 4).toNat = w.toNat / 65536 % 16 := field_toNat w 16 4

/-- `off` of CRCR. -/
theorem off_toNat (w : Word) : (field w 8 4).toNat = w.toNat / 256 % 16 := field_toNat w 8 4

/-- `n` of CRCR. -/
theorem n_toNat (w : Word) : (field w 0 4).toNat = w.toNat % 16 := by
  rw [field_toNat, Nat.pow_zero, Nat.div_one]
  rfl

theorem field_bit (w : Word) (lo : Nat) : field w lo 1 = BitVec.ofBool (w.getLsbD lo) := by
  refine BitVec.eq_of_getLsbD_eq fun i hi => ?_
  obtain rfl : i = 0 := by omega
  rw [Laws.field_getLsbD]
  simp

@[simp] theorem ofBool_beq_one (b : Bool) : (BitVec.ofBool b == 1#1) = b := by cases b <;> rfl

@[simp] theorem ofBool_field_bit (w : Word) (lo : Nat) : BitVec.ofBool (field w lo 1 == 1#1) = field w lo 1 := by
  rw [field_bit, ofBool_beq_one]

@[simp] theorem put_zero (n lo : Nat) : put 0#n lo = 0#32 := by simp [put]

@[simp] theorem field_put_self {n : Nat} (v : BitVec n) {lo : Nat} (h : n + lo ≤ 32) : field (put v lo) lo n = v := by
  refine BitVec.eq_of_getLsbD_eq fun i hi => ?_
  have : lo + i < 32 := by omega
  rw [Laws.field_getLsbD, Laws.put_getLsbD]
  simp [hi, this]

@[simp] theorem field_put_of_disjoint {n : Nat} (v : BitVec n) {lo lo' len : Nat} (h : lo' + len ≤ lo ∨ lo + n ≤ lo') :
    field (put v lo) lo' len = 0#len := by
  refine BitVec.eq_of_getLsbD_eq fun i hi => ?_
  rw [Laws.field_getLsbD, Laws.put_getLsbD, BitVec.getLsbD_zero]
  rcases h with h | h
  · have : lo' + i < lo := by omega
    simp [this]
  · simp [BitVec.getLsbD_of_ge v (lo' + i - lo) (by omega)]

theorem put_and {n : Nat} (v : BitVec n) (lo : Nat) (mask : Word) : put v lo &&& mask = put (v &&& field mask lo n) lo := by
  refine BitVec.eq_of_getLsbD_eq fun i hi => ?_
  simp only [BitVec.getLsbD_and, Laws.put_getLsbD, Laws.field_getLsbD]
  by_cases hlo : i < lo
  · simp [hlo]
  · by_cases hn : i - lo < n
    · simp [hn, Nat.add_sub_of_le (not_lt.1 hlo), Bool.and_assoc]
    · simp [hn, BitVec.getLsbD_of_ge v (i - lo) (by omega)]

/-- A field in its place is the word under the mask of that place. -/
theorem put_field (w : Word) (lo len : Nat) : put (field w lo len) lo = w &&& put (BitVec.allOnes len) lo := by
  rw [BitVec.and_comm w, put_and, BitVec.allOnes_and]

/-- A field is zero exactly where the word is zero under its mask. -/
theorem field_eq_zero_iff (w : Word) {lo len : Nat} (h : len + lo ≤ 32) :
    field w lo len = 0#len ↔ w &&& put (BitVec.allOnes len) lo = 0#32 := by
  rw [← put_field]
  constructor
  · intro hz
    rw [hz, put_zero]
  · intro hz
    rw [← field_put_self (field w lo len) h, hz, field_zero]

/-! ### The operands of formats T and I (30_encoding.md R92, R93) -/

theorem decodeCmd_eq_some {w : Word} {c : Cmd} (h : decodeCmd w = some c) :
    (field w 22 1 = 1#1 ∧ c = .two (field w 8 8) (field w 0 8)) ∨
    (field w 22 1 = 0#1 ∧ field w 0 8 = 0#8 ∧ c = .one (field w 8 8)) := by
  unfold decodeCmd at h
  split at h
  · next htwo => exact .inl ⟨htwo, (Option.some.inj h).symm⟩
  · next htwo =>
    split at h
    · next hb => exact .inr ⟨(BitVec.eq_zero_or_eq_one _).resolve_right htwo, hb, (Option.some.inj h).symm⟩
    · cases h

theorem decodeSource_eq_some {w : Word} {src : RawSource} (h : decodeSource w = some src) :
    (field w 23 1 = 0#1 ∧ src = .imm (field w 0 16)) ∨ (field w 23 1 = 1#1 ∧ field w 0 16 = 0#16 ∧ src = .buffer) := by
  unfold decodeSource at h
  split at h
  · next hb => exact .inl ⟨hb, (Option.some.inj h).symm⟩
  · next hb =>
    split at h
    · next himm => exact .inr ⟨(BitVec.eq_zero_or_eq_one _).resolve_left hb, himm, (Option.some.inj h).symm⟩
    · cases h

/-- `CmdLegal` is when the command of a word of format T can be read. -/
theorem cmdLegal_iff {w : Word} : CmdLegal w ↔ ∃ c, decodeCmd w = some c := by
  have hb : field w 0 8 = 0#8 ↔ w &&& 0x000000FF#32 = 0#32 := field_eq_zero_iff w (by decide)
  rw [CmdLegal, decodeCmd, field_bit, ← hb]
  cases w.getLsbD 22 <;> simp

theorem sourceLegal_iff {w : Word} : SourceLegal w ↔ ∃ src, decodeSource w = some src := by
  have himm : field w 0 16 = 0#16 ↔ w &&& 0x0000FFFF#32 = 0#32 := field_eq_zero_iff w (by decide)
  rw [SourceLegal, decodeSource, field_bit, ← himm]
  cases w.getLsbD 23 <;> simp

/-! ### The words of each format -/

theorem decodeCmd_formatT (op : Byte) (rel : Bool) (rlen : BitVec 4) (c : Cmd) : decodeCmd (formatT op rel rlen c) = some c := by
  cases c <;> simp [decodeCmd, formatT]

theorem decodeSource_formatI (op : Byte) (src : RawSource) : decodeSource (formatI op src) = some src := by
  cases src <;> simp [decodeSource, formatI]

@[simp] theorem formatT_rlen (op : Byte) (rel : Bool) (rlen : BitVec 4) (c : Cmd) :
    field (formatT op rel rlen c) 16 4 = rlen := by
  cases c <;> simp [formatT]

@[simp] theorem formatT_rel (op : Byte) (rel : Bool) (rlen : BitVec 4) (c : Cmd) :
    field (formatT op rel rlen c) 23 1 = BitVec.ofBool rel := by
  cases c <;> simp [formatT]

@[simp] theorem formatB_imm8 (op imm8 : Byte) : field (formatB op imm8) 0 8 = imm8 := by simp [formatB]

@[simp] theorem formatR_off (op : Byte) (off n : BitVec 4) : field (formatR op off n) 8 4 = off := by simp [formatR]

@[simp] theorem formatR_n (op : Byte) (off n : BitVec 4) : field (formatR op off n) 0 4 = n := by simp [formatR]

@[simp] theorem formatP_rel (op : Byte) (rel : Bool) (code : BitVec 2) :
    field (formatP op rel code) 23 1 = BitVec.ofBool rel := by simp [formatP]

@[simp] theorem formatP_code (op : Byte) (rel : Bool) (code : BitVec 2) : field (formatP op rel code) 0 2 = code := by
  simp [formatP]

/-! ### Each format under the mask of its rows (30_encoding.md R94) -/

@[simp] theorem byte_and_ones (b : Byte) : b &&& 0xFF#8 = b := BitVec.and_allOnes

theorem formatT_and (op : Byte) (rel : Bool) (rlen : BitVec 4) (c : Cmd) :
    formatT op rel rlen c &&& 0xFF300000#32 = put op 24 := by
  cases c <;> simp [formatT, BitVec.and_or_distrib_right, put_and, field]

/-- Where neither `rel` nor `rlen` is an operand, their bits are under the mask too (XWR). -/
theorem formatT_bare_and (op : Byte) (c : Cmd) : formatT op false 0#4 c &&& 0xFFBF0000#32 = put op 24 := by
  cases c <;> simp [formatT, BitVec.and_or_distrib_right, put_and, field]

theorem formatB_and (op imm8 : Byte) : formatB op imm8 &&& 0xFFFFFF00#32 = put op 24 := by
  simp [formatB, BitVec.and_or_distrib_right, put_and, field]

theorem formatR_and (op : Byte) (off n : BitVec 4) : formatR op off n &&& 0xFFFFF0F0#32 = put op 24 := by
  simp [formatR, BitVec.and_or_distrib_right, put_and, field]

theorem formatI_and (op : Byte) (src : RawSource) : formatI op src &&& 0xFF7F0000#32 = put op 24 := by
  cases src <;> simp [formatI, BitVec.and_or_distrib_right, put_and, field]

theorem formatP_rel_and (op : Byte) (rel : Bool) : formatP op rel 0#2 &&& 0xFF7FFFFF#32 = put op 24 := by
  simp [formatP, BitVec.and_or_distrib_right, put_and, field]

theorem formatP_code_and (op : Byte) (code : BitVec 2) : formatP op false code &&& 0xFFFFFFFC#32 = put op 24 := by
  simp [formatP, BitVec.and_or_distrib_right, put_and, field]

/-! ### A word that matches a row is its fields put together: no bit is dropped -/

/-- A field that lies under the mask of a row is that of the row's pattern. -/
theorem field_of_and {w mask pattern : Word} (hm : w &&& mask = pattern) {lo len : Nat}
    (hmask : field mask lo len = BitVec.allOnes len) : field w lo len = field pattern lo len := by
  rw [← hm, field_and, hmask, BitVec.and_allOnes]

theorem formatT_fields {op : Byte} {w : Word} (hm : w &&& 0xFF300000#32 = put op 24) {c : Cmd} (hc : decodeCmd w = some c) :
    formatT op (field w 23 1 == 1#1) (field w 16 4) c = w := by
  have hw : put op 24 ||| put (field w 23 1) 23 ||| put (field w 22 1) 22 ||| put (field w 16 4) 16 ||| put (field w 8 8) 8 |||
      put (field w 0 8) 0 = w := by
    simp only [← hm, put_field, ← BitVec.and_or_distrib_left]
    exact BitVec.and_allOnes
  obtain ⟨htwo, rfl⟩ | ⟨htwo, hb, rfl⟩ := decodeCmd_eq_some hc
  · simpa [formatT, htwo] using hw
  · simpa [formatT, htwo, hb] using hw

theorem formatT_bare_fields {op : Byte} {w : Word} (hm : w &&& 0xFFBF0000#32 = put op 24) {c : Cmd} (hc : decodeCmd w = some c) :
    formatT op false 0#4 c = w := by
  have hrel : field w 23 1 = 0#1 := (field_of_and hm (by decide)).trans (field_put_of_disjoint op (by decide))
  have hrlen : field w 16 4 = 0#4 := (field_of_and hm (by decide)).trans (field_put_of_disjoint op (by decide))
  have hm' : w &&& 0xFF300000#32 = put op 24 := by
    rw [show 0xFF300000#32 = 0xFFBF0000#32 &&& 0xFF300000#32 from rfl, ← BitVec.and_assoc, hm]
    simp [put_and, field]
  simpa [hrel, hrlen] using formatT_fields hm' hc

theorem formatB_fields {op : Byte} {w : Word} (hm : w &&& 0xFFFFFF00#32 = put op 24) : formatB op (field w 0 8) = w := by
  rw [formatB, ← hm, put_field, ← BitVec.and_or_distrib_left]
  exact BitVec.and_allOnes

theorem formatR_fields {op : Byte} {w : Word} (hm : w &&& 0xFFFFF0F0#32 = put op 24) :
    formatR op (field w 8 4) (field w 0 4) = w := by
  simp only [formatR, ← hm, put_field, ← BitVec.and_or_distrib_left]
  exact BitVec.and_allOnes

theorem formatI_fields {op : Byte} {w : Word} (hm : w &&& 0xFF7F0000#32 = put op 24) {src : RawSource}
    (hs : decodeSource w = some src) : formatI op src = w := by
  have hw : put op 24 ||| put (field w 23 1) 23 ||| put (field w 0 16) 0 = w := by
    simp only [← hm, put_field, ← BitVec.and_or_distrib_left]
    exact BitVec.and_allOnes
  obtain ⟨hb, rfl⟩ | ⟨hb, himm, rfl⟩ := decodeSource_eq_some hs
  · simpa [formatI, hb] using hw
  · simpa [formatI, hb, himm] using hw

theorem formatP_rel_fields {op : Byte} {w : Word} (hm : w &&& 0xFF7FFFFF#32 = put op 24) :
    formatP op (field w 23 1 == 1#1) 0#2 = w := by
  rw [formatP, ofBool_field_bit, put_zero, BitVec.or_zero, ← hm, put_field, ← BitVec.and_or_distrib_left]
  exact BitVec.and_allOnes

theorem formatP_code_fields {op : Byte} {w : Word} (hm : w &&& 0xFFFFFFFC#32 = put op 24) :
    formatP op false (field w 0 2) = w := by
  have hw : put op 24 ||| put (field w 0 2) 0 = w := by
    rw [← hm, put_field, ← BitVec.and_or_distrib_left]
    exact BitVec.and_allOnes
  simpa [formatP] using hw

/-! ### The instruction of a word that matches a row -/

theorem xfer_wf_iff {c : Cmd} {n : Nat} {rel : Bool} : (Instr.xfer c n rel).wf = true ↔ 1 ≤ n ∧ n ≤ 8 :=
  Bool.and_eq_true_iff.trans (and_congr decide_eq_true_iff decide_eq_true_iff)

theorem crcr_wf_iff {off n : Nat} : (Instr.crcr off n).wf = true ↔ off + n ≤ 7 := by simp [Instr.wf]

theorem encode_xfer_fields {w : Word} (hm : w &&& 0xFF300000#32 = 0x01000000#32) (c : Cmd) (hc : decodeCmd w = some c) :
    encode (.xfer c (field w 16 4).toNat (field w 23 1 == 1#1)) = w := by
  rw [encode, BitVec.ofNat_toNat, BitVec.setWidth_eq]
  exact formatT_fields (op := 0x01#8) hm hc

theorem encode_xwr_fields {w : Word} (hm : w &&& 0xFFBF0000#32 = 0x02000000#32) (c : Cmd) (hc : decodeCmd w = some c) :
    encode (.xwr c) = w := formatT_bare_fields (op := 0x02#8) hm hc

theorem encode_crcr_fields {w : Word} (hm : w &&& 0xFFFFF0F0#32 = 0x0B000000#32) :
    encode (.crcr (field w 8 4).toNat (field w 0 4).toNat) = w := by
  rw [encode, BitVec.ofNat_toNat, BitVec.ofNat_toNat, BitVec.setWidth_eq, BitVec.setWidth_eq]
  exact formatR_fields (op := 0x0B#8) hm

theorem encode_crcb_fields {w : Word} (hm : w &&& 0xFFFFFF00#32 = 0x09000000#32) : encode (.crcb (field w 0 8)) = w :=
  formatB_fields (op := 0x09#8) hm

theorem encode_crcv_fields {w : Word} (hm : w &&& 0xFFFFFF00#32 = 0x0A000000#32) : encode (.crcv (field w 0 8)) = w :=
  formatB_fields (op := 0x0A#8) hm

theorem encode_dect_fields {w : Word} (hm : w &&& 0xFF7F0000#32 = 0x10000000#32) (src : RawSource)
    (hs : decodeSource w = some src) : encode (.dect src) = w := formatI_fields (op := 0x10#8) hm hs

theorem encode_dech_fields {w : Word} (hm : w &&& 0xFF7F0000#32 = 0x11000000#32) (src : RawSource)
    (hs : decodeSource w = some src) : encode (.dech src) = w := formatI_fields (op := 0x11#8) hm hs

theorem encode_rdur_fields {w : Word} (hm : w &&& 0xFF7FFFFF#32 = 0x23000000#32) :
    encode (.rdur (field w 23 1 == 1#1)) = w := formatP_rel_fields (op := 0x23#8) hm

theorem encode_setres_fields {w : Word} (hm : w &&& 0xFFFFFFFC#32 = 0x24000000#32) : encode (.setres (field w 0 2)) = w :=
  formatP_code_fields (op := 0x24#8) hm

/-- A row without operands: its whole word is under the mask. -/
theorem encode_of_full_mask {w : Word} (i : Instr) (hm : w &&& 0xFFFFFFFF#32 = encode i) : encode i = w :=
  hm.symm.trans BitVec.and_allOnes

/-! ### Decoding, row by row -/

/-- No word matches two rows whose patterns differ where both masks look. -/
theorem row_skip {w mask pattern mask' pattern' : Word} {row later : Except IllegalWord Instr} (hm : w &&& mask = pattern)
    (hne : pattern &&& mask' ≠ pattern' &&& mask) : (if matchesRow w mask' pattern' then row else later) = later := by
  refine if_neg fun hm' => hne ?_
  rw [← hm, ← eq_of_beq hm', BitVec.and_assoc, BitVec.and_assoc, BitVec.and_comm mask]

/-- The row a word matches decides. -/
theorem row_decides {w mask pattern : Word} {o : Option Instr} {later : Except IllegalWord Instr} {i : Instr}
    (hm : w &&& mask = pattern) (ho : o = some i) (hwf : i.wf = true) :
    (if matchesRow w mask pattern then checked o else later) = .ok i := by
  subst ho
  exact (if_pos (beq_iff_eq.2 hm)).trans (if_pos hwf)

/-- The decoder inverts the encoder: no earlier row matches, and the fields read back are the operands. -/
theorem decode_encode {i : Instr} (hwf : i.wf = true) : decode (encode i) = .ok i := by
  cases i with
  | xfer c n rel =>
    have hm := formatT_and 0x01#8 rel (BitVec.ofNat 4 n) c
    have hn : n % 16 = n := Nat.mod_eq_of_lt (Nat.lt_of_le_of_lt (xfer_wf_iff.1 hwf).2 (by decide))
    exact row_decides hm (by simp [encode, decodeCmd_formatT, hn]) hwf
  | xwr c =>
    have hm := formatT_bare_and 0x02#8 c
    refine (row_skip hm (by decide)).trans ?_
    exact row_decides hm (by simp [encode, decodeCmd_formatT]) hwf
  | crcb imm8 =>
    have hm := formatB_and 0x09#8 imm8
    iterate 3 refine (row_skip hm (by decide)).trans ?_
    exact row_decides hm (by simp [encode]) hwf
  | crcv imm8 =>
    have hm := formatB_and 0x0A#8 imm8
    iterate 4 refine (row_skip hm (by decide)).trans ?_
    exact row_decides hm (by simp [encode]) hwf
  | crcr off n =>
    have hm := formatR_and 0x0B#8 (BitVec.ofNat 4 off) (BitVec.ofNat 4 n)
    have hle := crcr_wf_iff.1 hwf
    have hoff : off % 16 = off := Nat.mod_eq_of_lt (by omega)
    have hn : n % 16 = n := Nat.mod_eq_of_lt (by omega)
    iterate 5 refine (row_skip hm (by decide)).trans ?_
    exact row_decides hm (by simp [encode, hoff, hn]) hwf
  | dect src =>
    have hm := formatI_and 0x10#8 src
    iterate 6 refine (row_skip hm (by decide)).trans ?_
    exact row_decides hm (by simp [encode, decodeSource_formatI]) hwf
  | dech src =>
    have hm := formatI_and 0x11#8 src
    iterate 7 refine (row_skip hm (by decide)).trans ?_
    exact row_decides hm (by simp [encode, decodeSource_formatI]) hwf
  | rdur rel =>
    have hm := formatP_rel_and 0x23#8 rel
    iterate 11 refine (row_skip hm (by decide)).trans ?_
    exact row_decides hm (by simp [encode]) hwf
  | setres code =>
    have hm := formatP_code_and 0x24#8 code
    iterate 12 refine (row_skip hm (by decide)).trans ?_
    exact row_decides hm (by simp [encode]) hwf
  | crci | meast | meash | srst | rdsn => rfl

theorem checked_some {j i : Instr} (h : checked (some j) = .ok i) : j = i := by
  by_cases hj : j.wf = true
  · simpa [checked, hj] using h
  · simp [checked, hj] at h

/-- One row of the decoder: what it reads from the word's operands encodes to the word, or a later row decides. -/
theorem row_encode {α : Type} {w mask pattern : Word} {o : Option α} {f : α → Instr} {later : Except IllegalWord Instr}
    {i : Instr}
    (hrow : w &&& mask = pattern → ∀ a, o = some a → encode (f a) = w) (hlater : later = .ok i → encode i = w) :
    (if matchesRow w mask pattern then checked (o.map f) else later) = .ok i → encode i = w := by
  cases hm : matchesRow w mask pattern with
  | false => exact hlater
  | true =>
    cases o with
    | none => nofun
    | some a =>
      intro h
      rw [← checked_some h]
      exact hrow (eq_of_beq hm) a rfl

/-- The same for a row that can always be read. -/
theorem row_encode_some {w mask pattern : Word} {j : Instr} {later : Except IllegalWord Instr} {i : Instr}
    (hrow : w &&& mask = pattern → encode j = w) (hlater : later = .ok i → encode i = w) :
    (if matchesRow w mask pattern then checked (some j) else later) = .ok i → encode i = w :=
  row_encode (o := some ()) (f := fun _ => j) (fun hm _ _ => hrow hm) hlater

/-- The encoder inverts the decoder: row by row, the operands read put together give the word back. -/
theorem encode_decode {w : Word} {i : Instr} : decode w = .ok i → encode i = w := by
  unfold decode
  refine row_encode encode_xfer_fields ?_
  refine row_encode encode_xwr_fields ?_
  refine row_encode_some (encode_of_full_mask .crci) ?_
  refine row_encode_some encode_crcb_fields ?_
  refine row_encode_some encode_crcv_fields ?_
  refine row_encode_some encode_crcr_fields ?_
  refine row_encode encode_dect_fields ?_
  refine row_encode encode_dech_fields ?_
  refine row_encode_some (encode_of_full_mask .meast) ?_
  refine row_encode_some (encode_of_full_mask .meash) ?_
  refine row_encode_some (encode_of_full_mask .srst) ?_
  refine row_encode_some encode_rdur_fields ?_
  refine row_encode_some encode_setres_fields ?_
  refine row_encode_some (encode_of_full_mask .rdsn) ?_
  split <;> nofun

/-- Settles O2, by `decode_encode`. -/
theorem decodeOfEncode : Obligations.DecodeOfEncode := fun _ => decode_encode

/-- Settles O3: `decode_wf` and `encode_decode`. -/
theorem encodeOfDecode : Obligations.EncodeOfDecode := fun _ _ h => ⟨decode_wf h, encode_decode h⟩

/-! ### The legal words -/

/-- The word of a well-formed instruction is legal, by the row of the instruction. -/
theorem legalWord_encode {i : Instr} (hwf : i.wf = true) : LegalWord (encode i) := by
  unfold LegalWord
  cases i with
  | xfer c n rel =>
    have hn := xfer_wf_iff.1 hwf
    have hrlen : (encode (.xfer c n rel)).toNat / 65536 % 16 = n := by
      rw [← rlen_toNat, encode, formatT_rlen, BitVec.toNat_ofNat, Nat.mod_eq_of_lt (by omega)]
    refine .inl ⟨formatT_and _ _ _ _, ?_, ?_, cmdLegal_iff.2 ⟨c, decodeCmd_formatT _ _ _ _⟩⟩
    · exact hrlen.symm ▸ hn.1
    · exact hrlen.symm ▸ hn.2
  | xwr c =>
    refine .inr ?_
    exact .inl ⟨formatT_bare_and _ _, cmdLegal_iff.2 ⟨c, decodeCmd_formatT _ _ _ _⟩⟩
  | crci =>
    iterate 2 refine .inr ?_
    exact .inl rfl
  | crcb imm8 =>
    iterate 3 refine .inr ?_
    exact .inl (formatB_and _ _)
  | crcv imm8 =>
    iterate 4 refine .inr ?_
    exact .inl (formatB_and _ _)
  | crcr off n =>
    have hn := crcr_wf_iff.1 hwf
    have ho : (encode (.crcr off n)).toNat / 256 % 16 = off := by
      rw [← off_toNat, encode, formatR_off, BitVec.toNat_ofNat, Nat.mod_eq_of_lt (by omega)]
    have hl : (encode (.crcr off n)).toNat % 16 = n := by
      rw [← n_toNat, encode, formatR_n, BitVec.toNat_ofNat, Nat.mod_eq_of_lt (by omega)]
    iterate 5 refine .inr ?_
    exact .inl ⟨formatR_and _ _ _, by rw [ho, hl]; exact hn⟩
  | dect src =>
    iterate 6 refine .inr ?_
    exact .inl ⟨formatI_and _ _, sourceLegal_iff.2 ⟨src, decodeSource_formatI _ _⟩⟩
  | dech src =>
    iterate 7 refine .inr ?_
    exact .inl ⟨formatI_and _ _, sourceLegal_iff.2 ⟨src, decodeSource_formatI _ _⟩⟩
  | meast =>
    iterate 8 refine .inr ?_
    exact .inl rfl
  | meash =>
    iterate 9 refine .inr ?_
    exact .inl rfl
  | srst =>
    iterate 10 refine .inr ?_
    exact .inl rfl
  | rdur rel =>
    iterate 11 refine .inr ?_
    exact .inl (formatP_rel_and _ _)
  | setres code =>
    iterate 12 refine .inr ?_
    exact .inl (formatP_code_and _ _)
  | rdsn =>
    iterate 13 refine .inr ?_
    rfl

/-- A legal word is that of the instruction with its fields as operands. -/
theorem encode_of_legalWord {w : Word} (h : LegalWord w) : ∃ i : Instr, i.wf = true ∧ encode i = w := by
  rcases h with ⟨hm, hpos, hle, hc⟩ | ⟨hm, hc⟩ | hw | hm | hm | ⟨hm, hle⟩ | ⟨hm, hs⟩ | ⟨hm, hs⟩ | hw | hw | hw | hm | hm | hw
  · obtain ⟨c, hc⟩ := cmdLegal_iff.1 hc
    rw [← rlen_toNat] at hpos hle
    exact ⟨_, xfer_wf_iff.2 ⟨hpos, hle⟩, encode_xfer_fields hm c hc⟩
  · obtain ⟨c, hc⟩ := cmdLegal_iff.1 hc
    exact ⟨_, rfl, encode_xwr_fields hm c hc⟩
  · exact ⟨.crci, rfl, hw.symm⟩
  · exact ⟨_, rfl, encode_crcb_fields hm⟩
  · exact ⟨_, rfl, encode_crcv_fields hm⟩
  · rw [← off_toNat, ← n_toNat] at hle
    exact ⟨_, crcr_wf_iff.2 hle, encode_crcr_fields hm⟩
  · obtain ⟨src, hs⟩ := sourceLegal_iff.1 hs
    exact ⟨_, rfl, encode_dect_fields hm src hs⟩
  · obtain ⟨src, hs⟩ := sourceLegal_iff.1 hs
    exact ⟨_, rfl, encode_dech_fields hm src hs⟩
  · exact ⟨.meast, rfl, hw.symm⟩
  · exact ⟨.meash, rfl, hw.symm⟩
  · exact ⟨.srst, rfl, hw.symm⟩
  · exact ⟨_, rfl, encode_rdur_fields hm⟩
  · exact ⟨_, rfl, encode_setres_fields hm⟩
  · exact ⟨.rdsn, rfl, hw.symm⟩

/-- Settles O4: by the round trip the words that decode are those of the well-formed instructions, and these are the legal words. -/
theorem decoderAcceptsTheOpcodeMap : Obligations.DecoderAcceptsTheOpcodeMap := by
  intro w
  constructor
  · rintro ⟨i, hd⟩
    exact encode_decode hd ▸ legalWord_encode (decode_wf hd)
  · intro h
    obtain ⟨i, hwf, rfl⟩ := encode_of_legalWord h
    exact ⟨i, decode_encode hwf⟩

/-! ### Operation words written to OP -/

/-- A word written to OP of an idle block is issued (10_state.md R22). -/
theorem step_word {s : State} {w : Word} {rest : List Input} (hb : s.busy = false) (hs : s.script = .write 0 4 w :: rest) :
    step s = issue w { s with script := rest } := by
  have hstart : State.startsOperation { s with script := rest } 0 = true := by simp [State.startsOperation, hb]
  rw [step_write hs rfl (by decide), hostWrite, if_pos hstart]

theorem issue_illegal {w : Word} (h : ¬LegalWord w) (s : State) : issue w s = .next (s.rejectWord w) := by
  unfold issue
  split
  · next i hd => exact absurd ((decoderAcceptsTheOpcodeMap w).1 ⟨i, hd⟩) h
  · rfl

/-- Settles O5: the decoder refuses the word (O4), and a refused word writes OP, DONE and ERR only. -/
theorem illegalWordChangesOnlyOpDoneErr : Obligations.IllegalWordChangesOnlyOpDoneErr := by
  intro s w rest hb hs hl
  rw [step_word hb hs, issue_illegal hl]
  rfl

/-- Settles O1, by evaluation of the decoder. -/
theorem specWordsDecode : Obligations.SpecWordsDecode :=
  ⟨rfl, rfl, rfl, rfl, rfl, rfl, rfl, rfl, rfl, rfl, rfl, rfl, rfl, rfl⟩

/-- Settles O49: both words start an operation (O6) whose meaning is the write phase of 0xFE, from states that differ in OP. -/
theorem srstActsAsXwrOfTheResetCommand : Obligations.SrstActsAsXwrOfTheResetCommand := by
  intro s w hb hs
  obtain ⟨_, _, ht⟩ := stepRunsTheDecodedOperation s 0x22000000#32 [] .srst hb hs rfl
  obtain ⟨_, _, hu⟩ := stepRunsTheDecodedOperation { s with script := [.write 0 4 0x0200FE00#32] } 0x0200FE00#32 []
    (.xwr (.one 0xFE#8)) hb rfl rfl
  exact ⟨_, _, ht, hu, rfl, rfl, rfl⟩

end Sys2Proof.Machine
end

section
/-! The checksum (40_crc.md R120 to R122, R127) and the operations CRCI, CRCB, CRCV, CRCR (R123 to R126): the 8-bit register
follows the document's accumulator step by step, and a step forgets nothing, so that a flipped bit is never lost. -/

namespace Sys2Proof.Machine

/-! ### One iteration, by its top bit -/

theorem crcStep8_eq (a : Byte) : crcStep8 a = if a.getLsbD 7 then a <<< 1 ^^^ 0x31#8 else a <<< 1 := by
  have hbit : (a &&& 0x80#8 = 0#8) ↔ a.getLsbD 7 = false := by
    have h : a &&& 0x80#8 = if a.getLsbD 7 then 0x80#8 else 0#8 := BitVec.and_twoPow a 7
    rw [h]
    cases a.getLsbD 7 <;> decide
  simp only [crcStep8, hbit, Config.polyLow]
  cases a.getLsbD 7 <;> rfl

theorem crcStepWide_eq (n : Nat) : crcStepWide n = if n.testBit 7 then n <<< 1 ^^^ 0x131 else n <<< 1 := by
  have hbit : n &&& 0x80 = (n.testBit 7).toNat * 2 ^ 7 := Nat.and_two_pow n 7
  cases h : n.testBit 7 <;> simp [crcStepWide, hbit, h, Config.poly]

/-- The low 8 bits evolve by `crcStep8`, whatever the higher bits hold (40_crc.md R122). -/
theorem ofNat_crcStepWide (n : Nat) : BitVec.ofNat 8 (crcStepWide n) = crcStep8 (BitVec.ofNat 8 n) := by
  have htop : (BitVec.ofNat 8 n).getLsbD 7 = n.testBit 7 := BitVec.getLsbD_ofNat ..
  have hshift : BitVec.ofNat 8 (n <<< 1) = BitVec.ofNat 8 n <<< 1 := by
    refine BitVec.eq_of_toNat_eq ?_
    simp [Nat.shiftLeft_eq]
  rw [crcStepWide_eq, crcStep8_eq, htop, ← hshift]
  split
  · exact BitVec.ofNat_xor
  · rfl

/-- An iteration forgets nothing: bit 0 of the result is the top bit shifted out, because the polynomial is odd. -/
theorem crcStep8_injective : Function.Injective crcStep8 := by
  intro a b h
  have htop (x : Byte) : (crcStep8 x).getLsbD 0 = x.getLsbD 7 := by
    rw [crcStep8_eq]
    cases x.getLsbD 7 <;> simp
  have h7 : a.getLsbD 7 = b.getLsbD 7 := by rw [← htop, h, htop]
  have hshift : a <<< 1 = b <<< 1 := by
    rw [crcStep8_eq, crcStep8_eq, h7] at h
    split at h
    · exact (BitVec.xor_left_inj _).1 h
    · exact h
  refine BitVec.eq_of_getLsbD_eq fun i hi => ?_
  by_cases hi7 : i = 7
  · rw [hi7, h7]
  · have hbit := congrArg (·.getLsbD (i + 1)) hshift
    have hlt : i + 1 < 8 := by omega
    simpa [hlt, BitVec.getLsbD_eq_getElem, hi] using hbit

/-! ### One byte, and a sequence -/

theorem repeat_eq_iterate {α : Type} (f : α → α) (k : Nat) : Nat.repeat f k = f^[k] := by
  induction k with
  | zero => rfl
  | succ k ih =>
    rw [Function.iterate_succ', ← ih]
    rfl

theorem ofNat_crcByteWide (n : Nat) (d : Byte) : BitVec.ofNat 8 (crcByteWide n d) = crcByte8 (BitVec.ofNat 8 n) d := by
  have hsteps := (Function.Semiconj.iterate_right (f := BitVec.ofNat 8) ofNat_crcStepWide 8).eq (n ^^^ d.toNat)
  rw [crcByteWide, crcByte8, repeat_eq_iterate, repeat_eq_iterate, hsteps, BitVec.ofNat_xor, BitVec.ofNat_toNat,
    BitVec.setWidth_eq]

theorem crcByte8_eq_iterate (acc d : Byte) : crcByte8 acc d = crcStep8^[8] (acc ^^^ d) := by
  rw [crcByte8, repeat_eq_iterate]

theorem crcByte8_acc_injective (d : Byte) : Function.Injective (crcByte8 · d) := by
  intro a b h
  simp only [crcByte8_eq_iterate] at h
  exact (BitVec.xor_left_inj _).1 (crcStep8_injective.iterate 8 h)

theorem crcByte8_byte_injective (acc : Byte) : Function.Injective (crcByte8 acc) := by
  intro a b h
  simp only [crcByte8_eq_iterate] at h
  exact (BitVec.xor_right_inj _).1 (crcStep8_injective.iterate 8 h)

/-- Bytes absorbed after a difference never make up for it. -/
theorem foldl_crcByte8_injective (data : List Byte) : Function.Injective (data.foldl crcByte8 ·) := by
  induction data with
  | nil => exact fun _ _ h => h
  | cons d data ih => exact fun _ _ h => crcByte8_acc_injective d (ih h)

theorem ofNat_foldl_crcByteWide (data : List Byte) : BitVec.ofNat 8 (data.foldl crcByteWide 0) = crc data :=
  (List.foldl_hom (BitVec.ofNat 8) fun n d => (ofNat_crcByteWide n d).symm).symm

theorem crcWide_eq_toNat_crc (data : List Byte) : crcWide data = (crc data).toNat := by
  rw [crcWide, ← ofNat_foldl_crcByteWide, BitVec.toNat_ofNat]
  exact Nat.and_two_pow_sub_one_eq_mod _ 8

theorem crc_concat (data : List Byte) (d : Byte) : crc (data ++ [d]) = crcByte8 (crc data) d := List.foldl_append

theorem crc_ne_of_byte_ne (before after : List Byte) {d d' : Byte} (h : d ≠ d') :
    crc (before ++ d :: after) ≠ crc (before ++ d' :: after) := by
  intro heq
  simp only [crc, List.foldl_append, List.foldl_cons] at heq
  exact h (crcByte8_byte_injective _ (foldl_crcByte8_injective after heq))

theorem flip_ne (d : Byte) {k : Nat} (hk : k < 8) : d ^^^ 1#8 <<< k ≠ d := by
  intro h
  have hbit := congrArg (·.getLsbD k) h
  simp [hk] at hbit

/-- Settles O32: the low 8 bits follow `crcByte8` byte by byte. -/
theorem eightBitChecksumEqualsTheDocuments : Obligations.EightBitChecksumEqualsTheDocuments := by
  intro data
  have h := congrArg BitVec.toNat (ofNat_foldl_crcByteWide data)
  rwa [BitVec.toNat_ofNat] at h

/-- Settles O33: a flipped bit makes another byte, and absorbing a byte is injective in the byte and in the accumulator. -/
theorem checksumDetectsEverySingleBitFlip : Obligations.ChecksumDetectsEverySingleBitFlip := by
  refine ⟨fun data => beq_self_eq_true _, fun before after d k hk => ?_, by decide⟩
  exact beq_eq_false_iff_ne.2 (crc_ne_of_byte_ne before after (flip_ne d hk))

/-! ### The streamed operations -/

theorem formatB_eq (op imm8 : Byte) : formatB op imm8 = put op 24 ||| imm8.setWidth 32 := by simp [formatB, put]

theorem decode_crcb (d : Byte) : decode (0x09000000#32 ||| d.setWidth 32) = .ok (.crcb d) :=
  formatB_eq 0x09#8 d ▸ decode_encode (i := .crcb d) rfl

theorem decode_crcv (e : Byte) : decode (0x0A000000#32 ||| e.setWidth 32) = .ok (.crcv e) :=
  formatB_eq 0x0A#8 e ▸ decode_encode (i := .crcv e) rfl

theorem exec_crci (s : State) : exec .crci s = .next (ended { s with acc := 0x00#8 } .none) := rfl

theorem exec_crcb (d : Byte) (s : State) : exec (.crcb d) s = .next (ended { s with acc := crcByte8 s.acc d } .none) := rfl

theorem exec_crcv (e : Byte) (s : State) : exec (.crcv e) s = .next (ended { s with crcok := s.acc == e } .none) := rfl

/-- Settles O28, by the decoder's row and the meaning of CRCI. -/
theorem crciClearsTheAccumulator : Obligations.CrciClearsTheAccumulator := ⟨rfl, exec_crci⟩

/-- Settles O29: an accumulator that holds a checksum holds `crc data`, and `crc` takes one more byte as CRCB does. -/
theorem crcbAbsorbsOneByte : Obligations.CrcbAbsorbsOneByte := by
  refine ⟨decode_crcb, fun s d => ⟨_, rfl, exec_crcb d s, fun data hacc => ?_⟩⟩
  have hcrc : s.acc = crc data := BitVec.eq_of_toNat_eq (hacc.trans (crcWide_eq_toNat_crc data))
  rw [hcrc, crcWide_eq_toNat_crc, crc_concat]

/-- Settles O30, by the two outcomes of the comparison. -/
theorem crcvComparesTheAccumulator : Obligations.CrcvComparesTheAccumulator := by
  refine ⟨decode_crcv, fun s e => ⟨fun h => ?_, fun h => ?_⟩⟩
  · rw [exec_crcv, beq_iff_eq.2 h]
  · rw [exec_crcv, beq_eq_false_iff_ne.2 h]

/-! ### CRCR -/

/-- CRCR's row decides every word of its format; the sum of the operands says whether it is legal (30_encoding.md R93). -/
theorem decode_formatR (off n : BitVec 4) :
    decode (formatR 0x0B#8 off n) = checked (some (.crcr off.toNat n.toNat)) := by
  have hm := formatR_and 0x0B#8 off n
  iterate 5 refine (row_skip hm (by decide)).trans ?_
  rw [formatR_off, formatR_n]
  exact if_pos (beq_iff_eq.2 hm)

theorem formatR_toNat (op : Byte) (off n : BitVec 4) :
    (formatR op off n).toNat = n.toNat + off.toNat * 2 ^ 8 + op.toNat * 2 ^ 24 := by
  have hn : (put n 0).toNat = n.toNat := by simp [put_toNat n (lo := 0)]
  have hoff := or_put_toNat (put n 0) off (lo := 8) (by decide) (by omega)
  rw [formatR, BitVec.or_assoc, BitVec.or_comm, BitVec.or_comm (put off 8), or_put_toNat _ op (by decide) (by omega), hoff, hn]

/-- The word of CRCR as 40_crc.md R126 writes it. -/
theorem crcrWord_eq {off n : Nat} (hoff : off < 16) (hn : n < 16) :
    BitVec.ofNat 32 (0x0B000000 + off * 256 + n) = formatR 0x0B#8 (BitVec.ofNat 4 off) (BitVec.ofNat 4 n) := by
  refine BitVec.eq_of_toNat_eq ?_
  rw [formatR_toNat]
  simp only [BitVec.toNat_ofNat]
  omega

theorem decode_crcrWord {off n : Nat} (hoff : off < 16) (hn : n < 16) :
    decode (BitVec.ofNat 32 (0x0B000000 + off * 256 + n)) = checked (some (.crcr off n)) := by
  rw [crcrWord_eq hoff hn, decode_formatR, BitVec.toNat_ofNat, BitVec.toNat_ofNat, Nat.mod_eq_of_lt hoff, Nat.mod_eq_of_lt hn]

theorem exec_crcr_notReceived {s : State} {off n : Nat} (h : s.rlen ≤ off + n) :
    exec (.crcr off n) s = .next (ended s .illegalOp) := congrArg Host.Outcome.next (if_pos h)

theorem exec_crcr_received {s : State} {off n : Nat} (h : off + n < s.rlen) :
    exec (.crcr off n) s = .next (ended (s.validate (s.bufferSlice off n) (s.bufferByte (off + n))) .none) :=
  congrArg Host.Outcome.next (if_neg (Nat.not_le.2 h))

theorem bufferByte_eq (s : State) {i : Nat} (h : i < 8) : s.bufferByte i = s.rb[i] := by simp [State.bufferByte, h]

theorem bufferSlice_length (s : State) {off n : Nat} (h : off + n ≤ 8) : (s.bufferSlice off n).length = n := by
  simp [State.bufferSlice]
  omega

theorem bufferSlice_getElem? (s : State) {off n i : Nat} (h : off + n ≤ 8) (hi : i < n) :
    (s.bufferSlice off n)[i]? = some s.rb[off + i] := by
  simp [State.bufferSlice, hi]

/-- Settles O31: the decoder's row with the sum of its operands, and the two branches of CRCR. -/
theorem crcrValidatesTheBuffer : Obligations.CrcrValidatesTheBuffer := by
  refine ⟨fun off n h => ?_, fun off n hoff hn h => ?_, fun s off n h => ⟨exec_crcr_notReceived, fun hlt => ?_⟩⟩
  · rw [decode_crcrWord (by omega) (by omega)]
    exact if_pos (crcr_wf_iff.2 h)
  · refine ⟨.operands, ?_⟩
    rw [decode_crcrWord hoff hn]
    exact if_neg (mt crcr_wf_iff.1 (Nat.not_le.2 h))
  · refine ⟨s.bufferSlice off n, bufferSlice_length s (by omega), fun i hi => bufferSlice_getElem? s (by omega) hi,
      crc (s.bufferSlice off n), (crcWide_eq_toNat_crc _).symm, ?_⟩
    rw [exec_crcr_received hlt, bufferByte_eq s (by omega)]
    rfl

end Sys2Proof.Machine
end

section
/-! The frame of the operations: the registers fall into groups, and an operation changes only the groups its rule names as written
(40_crc.md R123 to R126, 41_transfer.md R148, R149, 42_protocol.md R172 to R177, 43_decoder.md R207, R208). -/

namespace Sys2Proof.Machine

/-- The registers of the state, grouped by what is written together. -/
inductive RegGroup where
  /-- OP, the parameters, the script and the records: no operation writes them -/
  | fixed
  /-- SN, and the page and latches of RDSN -/
  | serial
  /-- RAW and VAL -/
  | reading
  | urd
  | urw
  | acc
  | crcok
  /-- RB, RLEN, T0, the byte count and the answers left: what a read moves -/
  | buffer
  /-- HELD and the events: what a bus phase moves -/
  | bus

/-- The registers of the group have the same values in both states. -/
def RegGroup.Same (s t : State) : RegGroup → Prop
  | .fixed => t.op = s.op ∧ t.params = s.params ∧ t.script = s.script ∧ t.hostReads = s.hostReads ∧ t.draws = s.draws
  | .serial => t.sn = s.sn ∧ t.page = s.page ∧ t.latch = s.latch
  | .reading => t.raw = s.raw ∧ t.val = s.val
  | .urd => t.urd = s.urd
  | .urw => t.urw = s.urw
  | .acc => t.acc = s.acc
  | .crcok => t.crcok = s.crcok
  | .buffer => t.rb = s.rb ∧ t.rlen = s.rlen ∧ t.t0 = s.t0 ∧ t.rx = s.rx ∧ t.clock = s.clock ∧ t.cnt = s.cnt
  | .bus => t.held = s.held ∧ t.events = s.events

/-- The groups an operation's rule names as written. -/
def writesOf : Instr → List RegGroup
  | .xfer _ _ _ => [.buffer, .bus]
  | .xwr _ => [.bus]
  | .crci => [.acc]
  | .crcb _ => [.acc]
  | .crcv _ => [.crcok]
  | .crcr _ _ => [.acc, .crcok]
  | .dect _ => [.reading]
  | .dech _ => [.reading]
  | .meast => [.buffer, .bus, .acc, .crcok, .reading]
  | .meash => [.buffer, .bus, .acc, .crcok, .reading]
  | .srst => [.bus]
  | .rdur _ => [.buffer, .bus, .urd]
  | .setres _ => [.buffer, .bus, .urd, .urw]
  | .rdsn => [.buffer, .bus, .acc, .crcok, .serial]

/-- From `s` to `t` no group has changed but those of `W`. -/
def Frame (W : List RegGroup) (s t : State) : Prop := ∀ g, g ∉ W → g.Same s t

theorem RegGroup.Same.trans {s t u : State} {g : RegGroup} (h : g.Same s t) (h' : g.Same t u) : g.Same s u := by
  cases g <;> simp_all [RegGroup.Same]

theorem Frame.refl (W : List RegGroup) (s : State) : Frame W s s := fun g _ => by cases g <;> simp [RegGroup.Same]

theorem Frame.trans {W : List RegGroup} {s t u : State} (h : Frame W s t) (h' : Frame W t u) : Frame W s u :=
  fun g hg => (h g hg).trans (h' g hg)

/-- A frame may be widened. -/
theorem Frame.mono {W W' : List RegGroup} {s t : State} (h : Frame W s t) (hW : W ⊆ W' := by simp [writesOf]) : Frame W' s t :=
  fun g hg => h g fun hg' => hg (hW hg')

/-! ### The shared operations -/

theorem finish_frame (W : List RegGroup) (s : State) (e : ErrKind) : Frame W s (s.finish e) := fun g _ => by
  cases g <;> simp [RegGroup.Same]

theorem xwr_frame (s : State) (cmd : List Byte) : Frame [.bus] s (s.xwr cmd) := fun g hg => by
  cases g <;> simp_all [RegGroup.Same]

theorem setChecksum_frame (s : State) (a : Byte) (c : Bool) : Frame [.acc, .crcok] s { s with acc := a, crcok := c } :=
  fun g hg => by cases g <;> simp_all [RegGroup.Same]

theorem setAcc_frame (s : State) (a : Byte) : Frame [.acc] s { s with acc := a } := fun g hg => by
  cases g <;> simp_all [RegGroup.Same]

theorem setCrcok_frame (s : State) (c : Bool) : Frame [.crcok] s { s with crcok := c } := fun g hg => by
  cases g <;> simp_all [RegGroup.Same]

theorem setReading_frame (s : State) (raw val : Half) : Frame [.reading] s { s with raw := raw, val := val } := fun g hg => by
  cases g <;> simp_all [RegGroup.Same]

theorem setSerial_frame (s : State) (sn : Bytes8) (page : Page) (latch : Vector Byte 4) :
    Frame [.serial] s { s with sn := sn, page := page, latch := latch } := fun g hg => by
  cases g <;> simp_all [RegGroup.Same]

theorem setUrd_frame (s : State) (v : Byte) : Frame [.urd] s { s with urd := v } := fun g hg => by
  cases g <;> simp_all [RegGroup.Same]

theorem setUser_frame (s : State) (v w : Byte) : Frame [.urd, .urw] s { s with urd := v, urw := w } := fun g hg => by
  cases g <;> simp_all [RegGroup.Same]

theorem TransferKeeps.frame {s t : State} (h : TransferKeeps s t) : Frame [.buffer, .bus] s t := fun g hg => by
  cases g with
  | fixed => exact ⟨h.op, h.params, h.script, h.hostReads, h.draws⟩
  | serial => exact ⟨h.sn, h.page, h.latch⟩
  | reading => exact ⟨h.raw, h.val⟩
  | urd => exact h.urd
  | urw => exact h.urw
  | acc => exact h.acc
  | crcok => exact h.crcok
  | buffer | bus => simp at hg

theorem opening_frame {W : List RegGroup} {s : State} {pre : State → State} (h : Frame W s (pre s)) :
    Frame W s (s.opening pre) := by
  unfold State.opening
  split
  · exact .refl W s
  · exact h

/-- A read and what follows it. -/
theorem conclude_frame {W : List RegGroup} (hW : [.buffer, .bus] ⊆ W) (cmd : List Byte) (n : Nat) (rel : Bool) (s : State)
    {late good : State → State} (hlate : ∀ t, Frame W t (late t)) (hgood : ∀ t, Frame W t (good t)) :
    Frame W s ((xfer cmd n rel s).conclude late good) := by
  have h := (xfer_keeps cmd n rel s).frame.mono hW
  cases hx : xfer cmd n rel s with
  | ok t =>
    rw [hx] at h
    exact h.trans (hgood t)
  | timeout t =>
    rw [hx] at h
    exact h.trans (hlate t)
  | pending t =>
    rw [hx] at h
    exact h

/-! ### What follows the reads -/

theorem concludeMeasurement_frame (dec : Half → Int) (s : State) :
    Frame (writesOf .meast) s (concludeMeasurement dec s) := by
  have hv : Frame (writesOf .meast) s (s.validate [s.rb[0], s.rb[1]] s.rb[2]) :=
    (setChecksum_frame s _ _).mono
  rw [concludeMeasurement_eq]
  split
  · exact (hv.trans (setReading_frame _ _ _).mono).trans (finish_frame _ _ _)
  · exact hv.trans (finish_frame _ _ _)

theorem runMeasurement_frame (cmd : List Byte) (dec : Half → Int) (s : State) :
    Frame (writesOf .meast) s (runMeasurement cmd dec s) :=
  (opening_frame (setReading_frame s 0 0).mono).trans
    (conclude_frame (by simp [writesOf]) cmd 3 true _ (fun t => finish_frame _ t _) (concludeMeasurement_frame dec))

theorem readUser_frame {W : List RegGroup} (hW : [.buffer, .bus] ⊆ W) (rel : Bool) (s : State)
    {conclude : Byte → State → State} (hc : ∀ v t, Frame W t (conclude v t)) : Frame W s (readUser rel conclude s) :=
  conclude_frame hW cmdReadUser 1 rel s (hc 0#8) fun t => hc t.rb[0] t

theorem concludeRdur_frame (rel : Bool) (v : Byte) (s : State) : Frame (writesOf (.rdur rel)) s (concludeRdur v s) :=
  (setUrd_frame s v).mono.trans (finish_frame _ _ _)

theorem concludeSetres_frame (code : BitVec 2) (v : Byte) (s : State) :
    Frame (writesOf (.setres code)) s (concludeSetres code v s) :=
  ((setUser_frame s v _).mono.trans (xwr_frame _ _).mono).trans (finish_frame _ _ _)

theorem checkPage_frame (checks : List (List Byte × Byte)) (s : State) : Frame [.acc, .crcok] s (checkPage checks s).1 := by
  obtain ⟨a, c, e⟩ := checkPage_writes checks s
  rw [e]
  exact setChecksum_frame s a c

theorem concludeSerial_frame (s : State) : Frame (writesOf .rdsn) s (concludeSerial s) := by
  have hv := (checkPage_frame (pageBChecks s.rb) s).mono (W' := writesOf .rdsn)
  rw [concludeSerial_eq]
  split
  · exact (hv.trans (setSerial_frame _ _ _ _).mono).trans (finish_frame _ _ _)
  · exact hv.trans (finish_frame _ _ _)

theorem serialPageB_frame (s : State) : Frame (writesOf .rdsn) s (serialPageB s) :=
  conclude_frame (by simp [writesOf]) cmdPageB 6 true s (fun t => finish_frame _ t _) concludeSerial_frame

theorem afterPageA_frame (s : State) : Frame (writesOf .rdsn) s (afterPageA s) := by
  have hv := (checkPage_frame (pageAChecks s.rb) s).mono (W' := writesOf .rdsn)
  rw [afterPageA_eq]
  split
  · exact (hv.trans (setSerial_frame _ _ _ _).mono).trans (serialPageB_frame _)
  · exact hv.trans (finish_frame _ _ _)

theorem readSerial_frame (s : State) : Frame (writesOf .rdsn) s (readSerial s) := by
  unfold readSerial
  split
  · exact conclude_frame (by simp [writesOf]) cmdPageA 8 true s (fun t => finish_frame _ t _) afterPageA_frame
  · exact serialPageB_frame s

theorem decodeReading_frame (dec : Half → Int) (src : RawSource) (s : State) : Frame [.reading] s (decodeReading dec src s) := by
  unfold decodeReading
  split
  · exact finish_frame _ _ _
  · exact (setReading_frame s _ _).trans (finish_frame _ _ _)

/-! ### Every operation -/

/-- The operation changes no group but those it writes. -/
theorem exec_frame {i : Instr} {s t : State} (h : exec i s = .next t) : Frame (writesOf i) s t := by
  cases i with
  | xfer cmd n rel =>
    cases h
    exact conclude_frame (List.Subset.refl _) (cmdBytes cmd) n rel s (fun t => finish_frame _ t _) (fun t => finish_frame _ t _)
  | xwr cmd =>
    cases h
    exact (xwr_frame s _).trans (finish_frame _ _ _)
  | crci =>
    cases h
    exact (setAcc_frame s _).trans (finish_frame _ _ _)
  | crcb imm8 =>
    cases h
    exact (setAcc_frame s _).trans (finish_frame _ _ _)
  | crcv imm8 =>
    cases h
    exact (setCrcok_frame s _).trans (finish_frame _ _ _)
  | crcr off n =>
    cases h
    split
    · exact finish_frame _ _ _
    · exact (setChecksum_frame s _ _).trans (finish_frame _ _ _)
  | dect src =>
    cases h
    exact decodeReading_frame decT src s
  | dech src =>
    cases h
    exact decodeReading_frame decH src s
  | meast =>
    cases h
    exact runMeasurement_frame cmdTemperature decT s
  | meash =>
    cases h
    exact runMeasurement_frame cmdHumidity decH s
  | srst =>
    cases h
    exact (xwr_frame s _).trans (finish_frame _ _ _)
  | rdur rel =>
    cases h
    exact readUser_frame (by simp [writesOf]) rel s (concludeRdur_frame rel)
  | setres code =>
    cases h
    exact readUser_frame (by simp [writesOf]) false s (concludeSetres_frame code)
  | rdsn =>
    cases h
    exact (opening_frame (setSerial_frame s _ _ _).mono).trans (readSerial_frame _)

/-! ### Which operations write a group -/

theorem fixed_notMem_writes (i : Instr) : .fixed ∉ writesOf i := by cases i <;> simp [writesOf]

theorem serial_mem_writes {i : Instr} : .serial ∈ writesOf i ↔ i = .rdsn := by cases i <;> simp [writesOf]

theorem reading_mem_writes {i : Instr} :
    .reading ∈ writesOf i ↔ i = .meast ∨ i = .meash ∨ (∃ src, i = .dect src) ∨ ∃ src, i = .dech src := by
  cases i <;> simp [writesOf]

theorem urd_mem_writes {i : Instr} : .urd ∈ writesOf i ↔ (∃ rel, i = .rdur rel) ∨ ∃ code, i = .setres code := by
  cases i <;> simp [writesOf]

theorem urw_mem_writes {i : Instr} : .urw ∈ writesOf i ↔ ∃ code, i = .setres code := by
  cases i <;> simp [writesOf]

theorem acc_mem_writes {i : Instr} : .acc ∈ writesOf i ↔
    i = .crci ∨ (∃ d, i = .crcb d) ∨ (∃ off n, i = .crcr off n) ∨ i = .meast ∨ i = .meash ∨ i = .rdsn := by
  cases i <;> simp [writesOf]

theorem crcok_mem_writes {i : Instr} : .crcok ∈ writesOf i ↔
    (∃ e, i = .crcv e) ∨ (∃ off n, i = .crcr off n) ∨ i = .meast ∨ i = .meash ∨ i = .rdsn := by
  cases i <;> simp [writesOf]

theorem buffer_mem_writes {i : Instr} : .buffer ∈ writesOf i ↔
    (∃ cmd n rel, i = .xfer cmd n rel) ∨ i = .meast ∨ i = .meash ∨ (∃ rel, i = .rdur rel) ∨ (∃ code, i = .setres code) ∨
      i = .rdsn := by
  cases i <;> simp [writesOf]

/-- The bus is used by the reads, XWR and SRST. -/
theorem bus_mem_writes {i : Instr} :
    .bus ∈ writesOf i ↔ .buffer ∈ writesOf i ∨ (∃ cmd, i = .xwr cmd) ∨ i = .srst := by
  cases i <;> simp [writesOf]

/-- Settles O56: group by group, from the frame of the operation. -/
theorem registersChangeOnlyByTheirOperations : Obligations.RegistersChangeOnlyByTheirOperations := by
  intro i s t h
  have hf := exec_frame h
  obtain ⟨hop, hparams, hscript, hreads, hdraws⟩ := hf .fixed (fixed_notMem_writes i)
  refine ⟨hop, hparams, hscript, hreads, hdraws, ?_, ?_, ?_, ?_, ?_, ?_, ?_⟩
  · intro hrdsn
    exact hf .serial (by simp [serial_mem_writes, hrdsn])
  · intro hmeast hmeash hdect hdech
    exact hf .reading (by simp [reading_mem_writes, hmeast, hmeash, hdect, hdech])
  · intro hrdur hsetres
    exact hf .urd (by simp [urd_mem_writes, hrdur, hsetres])
  · intro hsetres
    exact hf .urw (by simp [urw_mem_writes, hsetres])
  · intro hcrci hcrcb hcrcr hmeast hmeash hrdsn
    exact hf .acc (by simp [acc_mem_writes, hcrci, hcrcb, hcrcr, hmeast, hmeash, hrdsn])
  · intro hcrcv hcrcr hmeast hmeash hrdsn
    exact hf .crcok (by simp [crcok_mem_writes, hcrcv, hcrcr, hmeast, hmeash, hrdsn])
  · intro hxfer hmeast hmeash hrdur hsetres hrdsn
    have hread : .buffer ∉ writesOf i := by simp [buffer_mem_writes, hxfer, hmeast, hmeash, hrdur, hsetres, hrdsn]
    obtain ⟨hrb, hrlen, ht0, hrx, hclock, hcnt⟩ := hf .buffer hread
    refine ⟨hrb, hrlen, ht0, hrx, hclock, hcnt, fun hxwr hsrst => ?_⟩
    exact hf .bus (by simp [bus_mem_writes, hread, hxwr, hsrst])

end Sys2Proof.Machine
end

section
/-! The operation words of XFER and XWR (30_encoding.md R91 to R96, 41_transfer.md R148, R149): a word of format T is the sum of its
fields, and the opcode of a word that decodes names its instruction. -/

namespace Sys2Proof.Machine

/-! ### The value of a word of format T -/

/-- The command fields of format T: `two`, `cmdA` and `cmdB` in their places (30_encoding.md R92). -/
def cmdFields : Cmd → Nat
  | .one a => a.toNat * 2 ^ 8
  | .two a b => b.toNat + a.toNat * 2 ^ 8 + 2 ^ 22

/-- They leave bits 16 to 21 and 23 to 31 zero, and `cmdB` where `two` is 0 (30_encoding.md R93). -/
theorem cmdFields_bits (c : Cmd) :
    cmdFields c % 2 ^ 22 < 2 ^ 16 ∧ cmdFields c < 2 ^ 23 ∧ (cmdFields c / 2 ^ 22 = 0 → cmdFields c % 256 = 0) := by
  cases c with
  | one a =>
    have ha := a.isLt
    rw [cmdFields]
    omega
  | two a b =>
    have ha := a.isLt
    have hb := b.isLt
    rw [cmdFields]
    omega

/-- A field put above the bits a word uses adds to the word, the field written first. -/
theorem put_or_toNat {n : Nat} (v : BitVec n) (x : Word) {lo : Nat} (h : n + lo ≤ 32) (hx : x.toNat < 2 ^ lo) :
    (put v lo ||| x).toNat = x.toNat + v.toNat * 2 ^ lo := by
  rw [BitVec.or_comm, or_put_toNat x v h hx]

theorem formatT_toNat (op : Byte) (rel : Bool) (rlen : BitVec 4) (c : Cmd) :
    (formatT op rel rlen c).toNat = cmdFields c + rlen.toNat * 2 ^ 16 + rel.toNat * 2 ^ 23 + op.toNat * 2 ^ 24 := by
  have hrel : (BitVec.ofBool rel).toNat = rel.toNat := BitVec.toNat_ofBool rel
  have hle := rel.toNat_le
  cases c with
  | one a =>
    have ha : (put a 8).toNat = a.toNat * 2 ^ 8 := put_toNat a (by decide)
    have hrlen := put_or_toNat rlen (put a 8) (lo := 16) (by decide) (by omega)
    have hbit := put_or_toNat (BitVec.ofBool rel) (put rlen 16 ||| put a 8) (lo := 23) (by decide) (by omega)
    simp only [formatT, BitVec.or_assoc]
    rw [put_or_toNat op _ (by decide) (by omega), hbit, hrlen, ha, hrel, cmdFields]
  | two a b =>
    have hb : (put b 0).toNat = b.toNat * 2 ^ 0 := put_toNat b (by decide)
    have ha := put_or_toNat a (put b 0) (lo := 8) (by decide) (by omega)
    have hrlen := put_or_toNat rlen (put a 8 ||| put b 0) (lo := 16) (by decide) (by omega)
    have hone : (1#1).toNat = 1 := rfl
    have htwo := put_or_toNat 1#1 (put rlen 16 ||| (put a 8 ||| put b 0)) (lo := 22) (by decide) (by omega)
    have hbit := put_or_toNat (BitVec.ofBool rel) (put 1#1 22 ||| (put rlen 16 ||| (put a 8 ||| put b 0))) (lo := 23) (by decide)
      (by omega)
    simp only [formatT, BitVec.or_assoc]
    rw [put_or_toNat op _ (by decide) (by omega), hbit, htwo, hrlen, ha, hb, hrel, hone, cmdFields]
    omega

theorem encode_xfer_toNat {c : Cmd} {n : Nat} {rel : Bool} (hn : n ≤ 8) :
    (encode (.xfer c n rel)).toNat = cmdFields c + n * 2 ^ 16 + rel.toNat * 2 ^ 23 + 2 ^ 24 := by
  rw [encode, formatT_toNat, BitVec.toNat_ofNat, Nat.mod_eq_of_lt (by omega)]
  rfl

theorem encode_xwr_toNat (c : Cmd) : (encode (.xwr c)).toNat = cmdFields c + 2 ^ 25 := by
  rw [encode, formatT_toNat]
  rfl

/-! ### The words the two operations take -/

theorem decode_of_toNat {i : Instr} (hwf : i.wf = true) {v : Nat} (hv : v = (encode i).toNat) :
    decode (BitVec.ofNat 32 v) = .ok i := by
  rw [hv, BitVec.ofNat_toNat, BitVec.setWidth_eq]
  exact decode_encode hwf

theorem decode_xferWord (rel : Bool) {n : Nat} (a b : Byte) (hpos : 1 ≤ n) (hle : n ≤ 8) :
    decode (BitVec.ofNat 32 (0x01000000 + rel.toNat * 0x800000 + n * 0x10000 + a.toNat * 0x100)) = .ok (.xfer (.one a) n rel) ∧
    decode (BitVec.ofNat 32 (0x01400000 + rel.toNat * 0x800000 + n * 0x10000 + a.toNat * 0x100 + b.toNat)) =
      .ok (.xfer (.two a b) n rel) :=
  have hwf (c : Cmd) : (Instr.xfer c n rel).wf = true := xfer_wf_iff.2 ⟨hpos, hle⟩
  ⟨decode_of_toNat (hwf _) (by rw [encode_xfer_toNat hle, cmdFields]; omega),
    decode_of_toNat (hwf _) (by rw [encode_xfer_toNat hle, cmdFields]; omega)⟩

theorem decode_xwrWord (a b : Byte) :
    decode (BitVec.ofNat 32 (0x02000000 + a.toNat * 0x100)) = .ok (.xwr (.one a)) ∧
    decode (BitVec.ofNat 32 (0x02400000 + a.toNat * 0x100 + b.toNat)) = .ok (.xwr (.two a b)) :=
  ⟨decode_of_toNat rfl (by rw [encode_xwr_toNat, cmdFields]; omega),
    decode_of_toNat rfl (by rw [encode_xwr_toNat, cmdFields]; omega)⟩

/-! ### The words they do not take -/

theorem rejected_of_decode {w : Word} (h : ∀ i, decode w ≠ .ok i) : Rejected w := by
  cases hd : decode w with
  | ok i => exact absurd hd (h i)
  | error why => exact ⟨why, hd⟩

theorem opcodeOf_encode (i : Instr) : opcodeOf (encode i) = i.opcode := by
  cases i with
  | xfer cmd rlen rel => exact Laws.Opcode.xfer cmd rlen rel
  | xwr cmd => exact Laws.Opcode.xwr cmd
  | crci => exact Laws.Opcode.crci
  | crcb imm8 => exact Laws.Opcode.crcb imm8
  | crcv imm8 => exact Laws.Opcode.crcv imm8
  | crcr off n => exact Laws.Opcode.crcr off n
  | dect src => exact Laws.Opcode.dect src
  | dech src => exact Laws.Opcode.dech src
  | meast => exact Laws.Opcode.meast
  | meash => exact Laws.Opcode.meash
  | srst => exact Laws.Opcode.srst
  | rdur rel => exact Laws.Opcode.rdur rel
  | setres code => exact Laws.Opcode.setres code
  | rdsn => exact Laws.Opcode.rdsn

/-- The top byte of a word that decodes is the opcode of its instruction (30_encoding.md R90). -/
theorem decode_opcode {w : Word} {i : Instr} (hd : decode w = .ok i) : w.toNat / 0x1000000 = i.opcode.toNat := by
  rw [← opcodeOf_encode, encode_decode hd, opcodeOf, field_toNat]
  omega

theorem opcode_xfer {i : Instr} (h : i.opcode.toNat = 0x01) : ∃ c n rel, i = .xfer c n rel := by
  cases i <;> simp [Instr.opcode] at h ⊢

theorem opcode_xwr {i : Instr} (h : i.opcode.toNat = 0x02) : ∃ c, i = .xwr c := by
  cases i <;> simp [Instr.opcode] at h ⊢

/-- A word with the opcode of XFER that decodes is the sum of its fields, with a length of 1 to 8 bytes. -/
theorem decode_xfer_toNat {w : Word} {i : Instr} (hop : w.toNat / 0x1000000 = 0x01) (hd : decode w = .ok i) :
    ∃ (c : Cmd) (n : Nat) (rel : Bool), 1 ≤ n ∧ n ≤ 8 ∧
      w.toNat = cmdFields c + n * 2 ^ 16 + rel.toNat * 2 ^ 23 + 2 ^ 24 := by
  obtain ⟨c, n, rel, rfl⟩ := opcode_xfer ((decode_opcode hd).symm.trans hop)
  obtain ⟨hpos, hle⟩ := xfer_wf_iff.1 (decode_wf hd)
  exact ⟨c, n, rel, hpos, hle, encode_decode hd ▸ encode_xfer_toNat hle⟩

/-- A word with the opcode of XWR that decodes is the sum of its fields. -/
theorem decode_xwr_toNat {w : Word} {i : Instr} (hop : w.toNat / 0x1000000 = 0x02) (hd : decode w = .ok i) :
    ∃ c : Cmd, w.toNat = cmdFields c + 2 ^ 25 := by
  obtain ⟨c, rfl⟩ := opcode_xwr ((decode_opcode hd).symm.trans hop)
  exact ⟨c, encode_decode hd ▸ encode_xwr_toNat c⟩

/-- Settles O40: the words by the value of format T, the rest by the meaning of XWR. -/
theorem xwrWritesWithAFullStop : Obligations.XwrWritesWithAFullStop := by
  refine ⟨decode_xwrWord, fun w hop hbad => rejected_of_decode fun i hd => ?_, fun s a b => ⟨rfl, rfl⟩⟩
  obtain ⟨c, hw⟩ := decode_xwr_toNat hop hd
  obtain ⟨hzero, hlt, hlow⟩ := cmdFields_bits c
  omega

end Sys2Proof.Machine
end

section
/-! Elapsed counts (41_transfer.md R150): differences modulo 2^W, which add up along the samples. -/

namespace Sys2Proof.Machine

theorem elapsed_cast (w t0 t : Nat) : ((elapsed w t0 t : Nat) : Int) = ((t : Int) - t0) % 2 ^ w :=
  Int.toNat_of_nonneg (Int.emod_nonneg _ (by positivity))

/-- A counter's samples, reduced modulo 2^W, show the counts between them modulo 2^W. -/
theorem elapsed_mod {w c0 c : Nat} (h : c0 ≤ c) : elapsed w (c0 % 2 ^ w) (c % 2 ^ w) = (c - c0) % 2 ^ w := by
  zify [h]
  rw [elapsed_cast]
  push_cast
  exact (Int.sub_emod _ _ _).symm

theorem elapsed_count {w c0 c : Nat} (h : c0 ≤ c) (hlt : c - c0 < 2 ^ w) : elapsed w (c0 % 2 ^ w) (c % 2 ^ w) = c - c0 := by
  rw [elapsed_mod h, Nat.mod_eq_of_lt hlt]

@[simp] theorem elapsed_self (w t : Nat) : elapsed w t t = 0 := by simp [elapsed]

/-- Elapsed counts add up along the samples, modulo 2^W. -/
theorem elapsed_add_mod (w t0 a b : Nat) : elapsed w t0 b = (elapsed w t0 a + elapsed w a b) % 2 ^ w := by
  zify
  simp only [elapsed_cast]
  rw [← Int.add_emod]
  congr 1
  ring

theorem elapsed_le_add (w t0 a b : Nat) : elapsed w t0 b ≤ elapsed w t0 a + elapsed w a b :=
  (elapsed_add_mod w t0 a b).trans_le (Nat.mod_le _ _)

/-- Settles O38: the definition is the difference modulo 2^W, and that is the true count while it is below 2^W. -/
theorem elapsedIsTheTrueCount : Obligations.ElapsedIsTheTrueCount :=
  ⟨fun _ _ _ => elapsed_count, elapsed_cast, by decide⟩

end Sys2Proof.Machine
end

section
/-! XFER from its start to its end (41_transfer.md R140 to R152): it ends by delivery or by timeout and by nothing else, a fair
environment ends it, a stopped clock does not, and its timeout comes at 100 counts. -/

namespace Sys2Proof.Machine

/-! ### The two ends of XFER -/

theorem exec_xfer_delivers {s : State} {cmd : Cmd} {n : Nat} {rel : Bool} {t : Nat} {rx rxR : List (Option Byte)}
    {clk clkR : List Nat} {bs : List Byte} {evs : List Event} (hs : s.inTransfer = false) (ha : Answered s t rx clk rxR clkR)
    (hd : Delivers s.params.w (t % 2 ^ s.params.w) n rx clk bs evs) :
    exec (.xfer cmd n rel) s = .next (ended (afterRead s (cmdBytes cmd) n rel t bs evs rxR clkR) .none) := by
  rw [exec_xfer, xfer_delivers _ _ _ _ _ _ _ _ _ _ _ hs ha hd]
  rfl

theorem exec_xfer_timesOut {s : State} {cmd : Cmd} {n : Nat} {rel : Bool} {t : Nat} {rx rxR : List (Option Byte)}
    {clk clkR : List Nat} {bs : List Byte} {evs : List Event} (hs : s.inTransfer = false) (ha : Answered s t rx clk rxR clkR)
    (hd : TimesOut s.params.w (t % 2 ^ s.params.w) n rx clk bs evs) :
    exec (.xfer cmd n rel) s = .next (ended (afterTimeout s (cmdBytes cmd) n rel t bs evs rxR clkR) .timeout) := by
  rw [exec_xfer, xfer_timesOut _ _ _ _ _ _ _ _ _ _ _ hs ha hd]
  rfl

/-- Settles O34: the words by the value of format T, the two ends by the two exits of `xfer`. -/
theorem xferReadsOrTimesOut : Obligations.XferReadsOrTimesOut := by
  refine ⟨fun rel n a b => decode_xferWord rel a b, fun w hop hbad => rejected_of_decode fun i hd => ?_,
    fun s cmd n rel t rx rxR clk clkR bs evs hs _ ha => ⟨exec_xfer_delivers hs ha, exec_xfer_timesOut hs ha⟩⟩
  obtain ⟨c, n, rel, hpos, hle, hw⟩ := decode_xfer_toNat hop hd
  have hrel := rel.toNat_le
  obtain ⟨hzero, hlt, hlow⟩ := cmdFields_bits c
  omega

/-! ### XFER begun -/

/-- Without a start sample the transfer waits after its read request. -/
theorem xfer_unsampled {s : State} (cmd : List Byte) (n : Nat) (rel : Bool) (hs : s.inTransfer = false) (hc : s.clock = []) :
    xfer cmd n rel s = .pending (s.beginRead cmd n rel) := by
  simp only [xfer, hs, Bool.false_eq_true, if_false]
  exact transfer_stalled (by simp) hc

/-- The state in which a transfer begun at `s` enters its poll loop, with the start sample `t` and the clock's answers `ts` left. -/
def State.requested (s : State) (cmd : List Byte) (n : Nat) (rel : Bool) (t : Nat) (ts : List Nat) : State :=
  (s.beginRead cmd n rel).sampleStart t ts

theorem xfer_requested {s : State} (cmd : List Byte) (n : Nat) (rel : Bool) {t : Nat} {ts : List Nat} (hs : s.inTransfer = false)
    (hc : s.clock = t :: ts) :
    xfer cmd n rel s = pollLoop n rel (s.requested cmd n rel t ts).rx (s.requested cmd n rel t ts) := by
  simp only [xfer, hs, Bool.false_eq_true, if_false]
  exact transfer_sampled (by simp) hc

/-- An XFER whose transfer waits is still running. -/
theorem exec_xfer_pending {s u : State} {cmd : Cmd} {n : Nat} {rel : Bool} (hb : s.busy = true)
    (hx : xfer (cmdBytes cmd) n rel s = .pending u) : exec (.xfer cmd n rel) s = .next u ∧ u.busy = true := by
  have hk := (xfer_keeps (cmdBytes cmd) n rel s).busy
  rw [hx] at hk
  rw [exec_xfer, hx]
  exact ⟨rfl, hk.trans hb⟩

/-- An XFER that has ended took a start sample and then answers that delivered its bytes or timed out, and stands as these say. -/
theorem exec_xfer_ended {s t : State} {cmd : Cmd} {n : Nat} {rel : Bool} (hs : s.inTransfer = false) (hb : s.busy = true)
    (he : exec (.xfer cmd n rel) s = .next t) (ht : t.busy = false) :
    ∃ (t0 : Nat) (rx rxR : List (Option Byte)) (clk clkR : List Nat) (bs : List Byte) (evs : List Event),
      Answered s t0 rx clk rxR clkR ∧
      ((Delivers s.params.w (t0 % 2 ^ s.params.w) n rx clk bs evs ∧
          t = ended (afterRead s (cmdBytes cmd) n rel t0 bs evs rxR clkR) .none) ∨
        (TimesOut s.params.w (t0 % 2 ^ s.params.w) n rx clk bs evs ∧
          t = ended (afterTimeout s (cmdBytes cmd) n rel t0 bs evs rxR clkR) .timeout)) := by
  have hwait : ∀ u, xfer (cmdBytes cmd) n rel s ≠ .pending u := by
    intro u hx
    obtain ⟨hu, hub⟩ := exec_xfer_pending hb hx
    cases he.symm.trans hu
    exact absurd (ht.symm.trans hub) (by decide)
  cases hc : s.clock with
  | nil => exact absurd (xfer_unsampled (cmdBytes cmd) n rel hs hc) (hwait _)
  | cons t0 ts =>
    have hx := xfer_requested (cmdBytes cmd) n rel hs hc
    have hexit := pollLoop_exits n rel (s.requested (cmdBytes cmd) n rel t0 ts) (Nat.zero_le n)
    rw [← hx] at hexit
    cases hr : xfer (cmdBytes cmd) n rel s with
    | pending u => exact absurd hr (hwait u)
    | ok u =>
      rw [hr] at hexit
      obtain ⟨rx, rxR, clk, clkR, bs, evs, hrx, hclk, hd⟩ := hexit
      have ha : Answered s t0 rx clk rxR clkR := ⟨hrx, hc.trans (congrArg _ hclk)⟩
      cases he.symm.trans (exec_xfer_delivers hs ha hd)
      exact ⟨t0, rx, rxR, clk, clkR, bs, evs, ha, .inl ⟨hd, rfl⟩⟩
    | timeout u =>
      rw [hr] at hexit
      obtain ⟨rx, rxR, clk, clkR, bs, evs, hrx, hclk, hd⟩ := hexit
      have ha : Answered s t0 rx clk rxR clkR := ⟨hrx, hc.trans (congrArg _ hclk)⟩
      cases he.symm.trans (exec_xfer_timesOut hs ha hd)
      exact ⟨t0, rx, rxR, clk, clkR, bs, evs, ha, .inr ⟨hd, rfl⟩⟩

/-- Settles O35, by `exec_xfer_ended`. -/
theorem transferEndsOnlyBySuccessOrTimeout : Obligations.TransferEndsOnlyBySuccessOrTimeout := by
  intro s t cmd n rel hs hb he ht
  obtain ⟨t0, rx, rxR, clk, clkR, bs, evs, ha, ⟨hd, rfl⟩ | ⟨hd, rfl⟩⟩ := exec_xfer_ended hs hb he ht
  · exact ⟨t0, rx, rxR, clk, clkR, bs, evs, ha, .inl ⟨rfl, hd⟩⟩
  · exact ⟨t0, rx, rxR, clk, clkR, bs, evs, ha, .inr ⟨rfl, hd⟩⟩

/-! ### The stopped clock -/

/-- The poll loop has the bytes `bytes` and then `k` empty polls to come, and its clock stands at the start sample's count `c`. -/
structure ClockStopped (c : Nat) (bytes : List Byte) (k : Nat) (s : State) : Prop where
  ph : s.ph = .poll
  t0 : s.t0 = c % 2 ^ s.params.w
  rx : s.rx = bytes.map some ++ List.replicate k none
  clock : s.clock = List.replicate k c

theorem ClockStopped.takeByte {c : Nat} {b : Byte} {bytes : List Byte} {k : Nat} {s : State} (h : ClockStopped c (b :: bytes) k s) :
    ClockStopped c bytes k (s.takeByte b (bytes.map some ++ List.replicate k none)) where
  ph := h.ph
  t0 := h.t0
  rx := rfl
  clock := h.clock

theorem ClockStopped.pollEmpty {c k : Nat} {s : State} (h : ClockStopped c [] (k + 1) s) :
    ClockStopped c [] k (s.pollEmpty (List.replicate k none) c (List.replicate k c)) where
  ph := h.ph
  t0 := h.t0
  rx := rfl
  clock := rfl

/-- Without a byte to come, every poll finds the clock short of 100 counts. -/
theorem pollLoop_clockStopped_empty {c k n : Nat} (rel : Bool) {s : State} (h : ClockStopped c [] k s) (hn : s.cnt < n) :
    ∃ t, pollLoop n rel s.rx s = .pending t ∧ ClockStopped c [] 0 t ∧ t.cnt = s.cnt := by
  induction k generalizing s with
  | zero =>
    have hrx : s.rx = [] := h.rx
    exact ⟨s, by rw [hrx, pollLoop_nil _ _ _ hn.ne], h, rfl⟩
  | succ k ih =>
    have hrx : s.rx = none :: List.replicate k none := h.rx
    have hearly : timedOut s.params.w s.t0 (s.sampled c) = false := timedOut_eq_false.2 (by simp [h.t0, State.sampled])
    obtain ⟨t, hp, ht, hcnt⟩ := ih h.pollEmpty hn
    refine ⟨t, ?_, ht, hcnt⟩
    rw [hrx, pollLoop_early _ _ _ _ _ _ hn.ne h.clock hearly]
    exact hp

/-- The bytes are taken, and then the clock stands still. -/
theorem pollLoop_clockStopped {c k n : Nat} (rel : Bool) {bytes : List Byte} {s : State} (h : ClockStopped c bytes k s)
    (hn : s.cnt + bytes.length < n) :
    ∃ t, pollLoop n rel s.rx s = .pending t ∧ ClockStopped c [] 0 t ∧ t.cnt = s.cnt + bytes.length := by
  induction bytes generalizing s with
  | nil => exact pollLoop_clockStopped_empty rel h hn
  | cons b bytes ih =>
    rw [List.length_cons] at hn ⊢
    have hrx : s.rx = some b :: (bytes.map some ++ List.replicate k none) := h.rx
    obtain ⟨t, hp, ht, hcnt⟩ := ih h.takeByte (by simp; omega)
    refine ⟨t, ?_, ht, by simp at hcnt; omega⟩
    rw [hrx, pollLoop_byte _ _ _ _ _ (by omega)]
    exact hp

/-- Settles O36: no sample of a stopped clock is late, so the poll loop waits when all the answers are used. -/
theorem stoppedClockHangsTheTransfer : Obligations.StoppedClockHangsTheTransfer := by
  intro s cmd n rel c k bytes hs hb hn hrx hclk
  have hstop : ClockStopped c bytes k (s.requested (cmdBytes cmd) n rel c (List.replicate k c)) := ⟨rfl, rfl, hrx, rfl⟩
  have hzero : (s.requested (cmdBytes cmd) n rel c (List.replicate k c)).cnt = 0 := rfl
  obtain ⟨t, hp, ht, hcnt⟩ := pollLoop_clockStopped (n := n) rel hstop (by omega)
  rw [← xfer_requested _ _ _ hs hclk] at hp
  obtain ⟨he, htb⟩ := exec_xfer_pending hb hp
  exact ⟨t, he, htb, ht.ph, ht.rx, ht.clock, by omega⟩

/-! ### The fair environment -/

/-- The clock counts up from the start sample's count `c0` through `counts`, within one wrap and to 100 counts or more, and the
transport answers at least as often as the clock (20_memory.md R71). -/
structure Fair (c0 : Nat) (counts : List Nat) (s : State) : Prop where
  t0 : s.t0 = c0 % 2 ^ s.params.w
  clock : s.clock = counts.map (· % 2 ^ s.params.w)
  wrap : ∀ c ∈ counts, c0 ≤ c ∧ c - c0 < 2 ^ s.params.w
  reaches : ∃ c ∈ counts, c0 + 100 ≤ c
  answers : counts.length ≤ s.rx.countP (· == none)

theorem Fair.takeByte {c0 : Nat} {counts : List Nat} {s : State} (h : Fair c0 counts s) {b : Byte} {l : List (Option Byte)}
    (hrx : s.rx = some b :: l) : Fair c0 counts (s.takeByte b l) :=
  { h with answers := by simpa [hrx] using h.answers }

/-- A fair environment has a sample and an answer left. -/
theorem Fair.not_exhausted {c0 : Nat} {counts : List Nat} {s : State} (h : Fair c0 counts s) : s.clock ≠ [] ∧ s.rx ≠ [] := by
  obtain ⟨-, hclock, -, ⟨c, hc, -⟩, hans⟩ := h
  refine ⟨fun hclk => ?_, fun hrx => ?_⟩
  · have hnone : counts = [] := List.map_eq_nil_iff.1 (hclock.symm.trans hclk)
    exact List.ne_nil_of_mem hc hnone
  · rw [hrx] at hans
    exact absurd (List.length_pos_of_mem hc) (Nat.not_lt.2 hans)

/-- A sample short of 100 counts leaves the environment fair: the one that reaches 100 is still to come. -/
theorem Fair.pollEmpty {c0 : Nat} {counts : List Nat} {s : State} (h : Fair c0 counts s) {l : List (Option Byte)} {t : Nat}
    {ts : List Nat} (hrx : s.rx = none :: l) (hclk : s.clock = t :: ts)
    (hearly : timedOut s.params.w s.t0 (s.sampled t) = false) : ∃ counts', Fair c0 counts' (s.pollEmpty l t ts) := by
  obtain ⟨ht0, hclock, hwrap, ⟨c, hc, h100⟩, hans⟩ := h
  cases counts with
  | nil => cases hc
  | cons c1 counts =>
    obtain ⟨rfl, rfl⟩ := List.cons.inj (hclk.symm.trans hclock)
    obtain ⟨hle, hlt⟩ := hwrap c1 List.mem_cons_self
    have hshort : c1 - c0 < 100 := by
      simpa [timedOut_eq_false, ht0, State.sampled, elapsed_count hle hlt] using hearly
    have htail : c ∈ counts := (List.mem_cons.1 hc).resolve_left (by omega)
    exact ⟨counts, ht0, rfl, fun d hd => hwrap d (List.mem_cons_of_mem c1 hd), ⟨c, htail, h100⟩, by simpa [hrx] using hans⟩

/-- Under a fair environment the poll loop does not wait. -/
theorem pollLoop_fair (n : Nat) (rel : Bool) (c0 : Nat) (s : State) :
    ∀ counts, Fair c0 counts s → ∀ u, pollLoop n rel s.rx s ≠ .pending u := by
  refine pollLoop_induction (motive := fun s r => ∀ counts, Fair c0 counts s → ∀ u, r ≠ .pending u) ?done ?waits ?late ?byte
    ?early s
  case done => exact fun s _ counts _ u => nofun
  case waits =>
    rintro s _ (hrx | ⟨l, _, hclk⟩) counts h u
    · exact absurd hrx h.not_exhausted.2
    · exact absurd hclk h.not_exhausted.1
  case late => exact fun s l t ts _ _ _ _ counts _ u => nofun
  case byte => exact fun s b l r _ hrx ih counts h => ih counts (h.takeByte hrx)
  case early =>
    intro s l t ts r _ hrx hclk hearly ih counts h
    obtain ⟨counts', h'⟩ := h.pollEmpty hrx hclk hearly
    exact ih counts' h'

/-- Settles O37: the fair environment holds when the poll loop is entered, and then the loop does not wait. -/
theorem fairEnvironmentEndsTheTransfer : Obligations.FairEnvironmentEndsTheTransfer := by
  intro s cmd n rel c0 counts hs hb hclk hwrap hreach hans
  have hfair : Fair c0 counts (s.requested (cmdBytes cmd) n rel (c0 % 2 ^ s.params.w) (counts.map (· % 2 ^ s.params.w))) :=
    ⟨Nat.mod_mod _ _, rfl, hwrap, hreach, hans⟩
  have hwait := pollLoop_fair n rel c0 _ counts hfair
  rw [← xfer_requested _ _ _ hs hclk] at hwait
  rw [exec_xfer]
  cases hx : xfer (cmdBytes cmd) n rel s with
  | ok u => exact ⟨u.finish .none, rfl, rfl, rfl, .inl rfl⟩
  | timeout u => exact ⟨u.finish .timeout, rfl, rfl, rfl, .inr rfl⟩
  | pending u => exact absurd hx (hwait u)

/-! ### When the timeout comes -/

/-- The last event of a read that timed out is the sample that shows 100 counts or more. -/
theorem TimesOut.last_sample {w t0 n : Nat} {rx : List (Option Byte)} {clk : List Nat} {bs : List Byte} {evs : List Event}
    (h : TimesOut w t0 n rx clk bs evs) : ∃ evs' last, evs = evs' ++ [.now last] ∧ 100 ≤ elapsed w t0 last ∧
      ∀ (prev : Nat) (rest : List Nat), elapsed w t0 (prev % 2 ^ w) < 100 → PolledEveryCount w (prev :: (clk ++ rest)) →
        elapsed w t0 last = 100 := by
  induction h with
  | late t reached =>
    refine ⟨[.av false], t % 2 ^ w, rfl, reached, fun prev rest hprev hpolled => ?_⟩
    obtain ⟨hstep, _⟩ := hpolled
    have hsum := elapsed_le_add w t0 (prev % 2 ^ w) (t % 2 ^ w)
    omega
  | byte b _ ih =>
    obtain ⟨evs', last, rfl, hreached, hexact⟩ := ih
    exact ⟨.av true :: .rd b :: evs', last, rfl, hreached, hexact⟩
  | wait t early _ ih =>
    obtain ⟨evs', last, rfl, hreached, hexact⟩ := ih
    refine ⟨.av false :: .now (t % 2 ^ w) :: evs', last, rfl, hreached, fun prev rest _ hpolled => ?_⟩
    obtain ⟨_, hpolled⟩ := hpolled
    exact hexact t rest early hpolled

/-- Settles O39: the last sample shows 100 counts or more, the one before it fewer, and they differ by at most one count. -/
theorem timeoutComesAtOneHundredCounts : Obligations.TimeoutComesAtOneHundredCounts := by
  intro s t cmd n rel _ hs hb he ht herr
  obtain ⟨t0, rx, rxR, clk, clkR, bs, evs, ⟨_, hclk⟩, ⟨_, rfl⟩ | ⟨hd, rfl⟩⟩ := exec_xfer_ended hs hb he ht
  · cases herr
  · obtain ⟨evs', last, rfl, hreached, hexact⟩ := hd.last_sample
    refine ⟨requestEvents (cmdBytes cmd) n rel (t0 % 2 ^ s.params.w) ++ evs', last, ?_, hreached, fun hpolled => ?_⟩
    · simp [ended, afterTimeout]
    · rw [hclk] at hpolled
      exact hexact t0 clkR (by simp) hpolled

end Sys2Proof.Machine
end

section
/-! The protocol operations with one read (42_protocol.md R172 to R176): what each makes of a read that succeeded and of one that timed
out, as a whole next state. -/

namespace Sys2Proof.Machine

/-! ### The bytes received -/

@[simp] theorem padded_getElem (bs : List Byte) (i : Nat) (h : i < 8) : (padded bs)[i] = bs.getD i 0#8 := by simp [padded]

/-- raw16 is the first byte times 256 plus the second (43_decoder.md R201). -/
theorem raw16Of_toNat (first second : Byte) : (raw16Of first second).toNat = first.toNat * 256 + second.toNat := by
  have hshift : (first.setWidth 16 <<< 8).toNat = first.toNat * 256 := by
    rw [BitVec.toNat_shiftLeft, BitVec.toNat_setWidth, Nat.shiftLeft_eq]
    omega
  have hsecond : (second.setWidth 16).toNat = second.toNat := BitVec.toNat_setWidth_of_le (by decide)
  rw [raw16Of, BitVec.toNat_or, hshift, hsecond, Nat.mul_comm]
  exact (Nat.two_pow_add_eq_or_of_lt (i := 8) second.isLt first.toNat).symm

theorem raw16Of_eq_ofNat (first second : Byte) : raw16Of first second = BitVec.ofNat 16 (first.toNat * 256 + second.toNat) := by
  rw [← raw16Of_toNat, BitVec.ofNat_toNat, BitVec.setWidth_eq]

theorem decT_eq_hundredthsT (raw : Half) : decT raw = hundredthsT raw.toNat := by
  rw [decT, linearDecode, hundredthsT, Nat.shiftRight_eq_div_pow]
  rfl

theorem decH_eq_hundredthsH (raw : Half) : decH raw = hundredthsH raw.toNat := by
  rw [decH, linearDecode, hundredthsH, Nat.shiftRight_eq_div_pow]
  rfl

theorem validates_iff {data : List Byte} {expected : Byte} : validates data expected = true ↔ crc data = expected := beq_iff_eq

theorem validate_of_fits (s : State) {data : List Byte} {expected : Byte} (h : crc data = expected) :
    s.validate data expected = { s with acc := crc data, crcok := true } := by
  rw [State.validate, validates_iff.2 h]

theorem validate_of_mismatch (s : State) {data : List Byte} {expected : Byte} (h : crc data ≠ expected) :
    s.validate data expected = { s with acc := crc data, crcok := false } := by
  rw [State.validate, Bool.eq_false_iff.2 (mt validates_iff.1 h)]

/-! ### MEAST and MEASH -/

theorem opening_begun {s : State} (hs : s.inTransfer = false) (pre : State → State) : s.opening pre = pre s := by
  simp [State.opening, hs]

/-- A checksum that fits is kept in ACC with CRCOK, and the reading is decoded. -/
theorem concludeMeasurement_fits (dec : Half → Int) {s : State} (h : crc [s.rb[0], s.rb[1]] = s.rb[2]) :
    concludeMeasurement dec s = ended { s with
      acc := s.rb[2], crcok := true, raw := s.bufferRaw, val := BitVec.ofInt 16 (dec s.bufferRaw) } .none := by
  rw [concludeMeasurement_eq, if_pos (validates_iff.2 h), validate_of_fits s h, h]
  rfl

theorem concludeMeasurement_mismatch (dec : Half → Int) {s : State} (h : crc [s.rb[0], s.rb[1]] ≠ s.rb[2]) :
    concludeMeasurement dec s =
      ended { s with acc := crc [s.rb[0], s.rb[1]], crcok := false } .checksumMismatch := by
  rw [concludeMeasurement_eq, if_neg (mt validates_iff.1 h), validate_of_mismatch s h]
  rfl

section Measurement

variable {cmd : List Byte} {dec : Half → Int} {s : State} {t : Nat} {rx rxR : List (Option Byte)} {clk clkR : List Nat}
  {evs : List Event}

theorem runMeasurement_delivers {bs : List Byte} (hs : s.inTransfer = false) (ha : Answered s t rx clk rxR clkR)
    (hd : Delivers s.params.w (t % 2 ^ s.params.w) 3 rx clk bs evs) : runMeasurement cmd dec s =
      concludeMeasurement dec { afterRead s.clearReading cmd 3 true t bs evs rxR clkR with ph := .post } := by
  rw [runMeasurement_eq, opening_begun hs, xfer_delivers cmd 3 true s.clearReading t rx rxR clk clkR bs evs hs ha hd]
  rfl

theorem runMeasurement_fits {hundredths : Nat → Int} {b0 b1 b2 : Byte} (hdec : ∀ raw, dec raw = hundredths raw.toNat)
    (hs : s.inTransfer = false) (ha : Answered s t rx clk rxR clkR)
    (hd : Delivers s.params.w (t % 2 ^ s.params.w) 3 rx clk [b0, b1, b2] evs) (hcrc : b2.toNat = crcWide [b0, b1]) :
    runMeasurement cmd dec s = ended { afterRead s cmd 3 true t [b0, b1, b2] evs rxR clkR with
      acc := b2, crcok := true, raw := BitVec.ofNat 16 (b0.toNat * 256 + b1.toNat),
      val := BitVec.ofInt 16 (hundredths (b0.toNat * 256 + b1.toNat)) } .none := by
  have hfits : crc [b0, b1] = b2 := BitVec.eq_of_toNat_eq (hcrc.trans (crcWide_eq_toNat_crc _)).symm
  rw [runMeasurement_delivers hs ha hd, ← raw16Of_toNat, ← hdec, raw16Of_toNat, ← raw16Of_eq_ofNat]
  exact concludeMeasurement_fits dec hfits

theorem runMeasurement_mismatch {b0 b1 b2 : Byte} (hs : s.inTransfer = false) (ha : Answered s t rx clk rxR clkR)
    (hd : Delivers s.params.w (t % 2 ^ s.params.w) 3 rx clk [b0, b1, b2] evs) (hcrc : b2.toNat ≠ crcWide [b0, b1]) :
    runMeasurement cmd dec s = ended { afterRead s cmd 3 true t [b0, b1, b2] evs rxR clkR with
      acc := BitVec.ofNat 8 (crcWide [b0, b1]), crcok := false, raw := 0x0000#16, val := 0x0000#16 } .checksumMismatch := by
  have hbad : crc [b0, b1] ≠ b2 := fun h => hcrc (h ▸ (crcWide_eq_toNat_crc _).symm)
  rw [runMeasurement_delivers hs ha hd, crcWide_eq_toNat_crc, BitVec.ofNat_toNat, BitVec.setWidth_eq]
  exact concludeMeasurement_mismatch dec hbad

theorem runMeasurement_timesOut {bs : List Byte} (hs : s.inTransfer = false) (ha : Answered s t rx clk rxR clkR)
    (hd : TimesOut s.params.w (t % 2 ^ s.params.w) 3 rx clk bs evs) : runMeasurement cmd dec s =
      ended { afterTimeout s cmd 3 true t bs evs rxR clkR with raw := 0x0000#16, val := 0x0000#16 } .timeout := by
  rw [runMeasurement_eq, opening_begun hs, xfer_timesOut cmd 3 true s.clearReading t rx rxR clk clkR bs evs hs ha hd]
  rfl

end Measurement

/-- Settles O46, by the three ends of a measurement. -/
theorem meastMeasuresTemperature : Obligations.MeastMeasuresTemperature := by
  refine ⟨rfl, fun s t rx rxR clk clkR evs hs ha =>
    ⟨fun b0 b1 b2 hd => ⟨fun hcrc => ?fits, fun hcrc => ?mismatch⟩, fun bs hd => ?timesOut⟩⟩
  case fits => exact congrArg _ (runMeasurement_fits decT_eq_hundredthsT hs ha hd hcrc)
  case mismatch => exact congrArg _ (runMeasurement_mismatch hs ha hd hcrc)
  case timesOut => exact congrArg _ (runMeasurement_timesOut hs ha hd)

/-- Settles O47, by the three ends of a measurement with the humidity function. -/
theorem meashMeasuresHumidity : Obligations.MeashMeasuresHumidity := by
  refine ⟨rfl, fun s t rx rxR clk clkR evs hs ha =>
    ⟨fun b0 b1 b2 hd => ⟨fun hcrc => ?fits, fun hcrc => ?mismatch⟩, fun bs hd => ?timesOut⟩⟩
  case fits => exact congrArg _ (runMeasurement_fits decH_eq_hundredthsH hs ha hd hcrc)
  case mismatch => exact congrArg _ (runMeasurement_mismatch hs ha hd hcrc)
  case timesOut => exact congrArg _ (runMeasurement_timesOut hs ha hd)

/-! ### SRST -/

/-- Settles O48, by the meaning of SRST. -/
theorem srstSendsTheSoftReset : Obligations.SrstSendsTheSoftReset := ⟨rfl, fun _ => rfl⟩

/-! ### RDUR and SETRES -/

section UserRegister

variable {rel : Bool} {conclude : Byte → State → State} {s : State} {t : Nat} {rx rxR : List (Option Byte)} {clk clkR : List Nat}
  {evs : List Event}

theorem readUser_delivers {u : Byte} (hs : s.inTransfer = false) (ha : Answered s t rx clk rxR clkR)
    (hd : Delivers s.params.w (t % 2 ^ s.params.w) 1 rx clk [u] evs) : readUser rel conclude s =
      conclude u { afterRead s [0xE7#8] 1 rel t [u] evs rxR clkR with ph := .post } := by
  rw [readUser_eq, xfer_delivers cmdReadUser 1 rel s t rx rxR clk clkR [u] evs hs ha hd]
  rfl

/-- A read that timed out yields 0 (42_protocol.md R175). -/
theorem readUser_timesOut {bs : List Byte} (hs : s.inTransfer = false) (ha : Answered s t rx clk rxR clkR)
    (hd : TimesOut s.params.w (t % 2 ^ s.params.w) 1 rx clk bs evs) : readUser rel conclude s =
      conclude 0#8 { afterTimeout s [0xE7#8] 1 rel t bs evs rxR clkR with ph := .post } := by
  rw [readUser_eq, xfer_timesOut cmdReadUser 1 rel s t rx rxR clk clkR bs evs hs ha hd]
  rfl

end UserRegister

/-- Settles O50: the byte read, or 0 for a timeout, goes to URD and decides the error. -/
theorem rdurReadsTheUserRegister : Obligations.RdurReadsTheUserRegister := by
  refine ⟨rfl, rfl, fun s rel t rx rxR clk clkR evs hs ha => ⟨fun u hd => ⟨fun hu => ?_, fun hu => ?_⟩, fun bs hd => ?_⟩⟩
  · rw [exec_rdur, readUser_delivers hs ha hd, concludeRdur, absence, if_neg hu]
    rfl
  · subst hu
    rw [exec_rdur, readUser_delivers hs ha hd]
    rfl
  · rw [exec_rdur, readUser_timesOut hs ha hd]
    rfl

theorem decode_setres (code : BitVec 2) : decode (0x24000000#32 ||| code.setWidth 32) = .ok (.setres code) := by
  have hword : encode (.setres code) = 0x24000000#32 ||| code.setWidth 32 := by simp [encode, formatP, put]
  exact hword ▸ decode_encode rfl

/-- The low six bits kept and the code on top are a sum (42_protocol.md R176). -/
theorem withResolution_toNat (urd : Byte) (code : BitVec 2) :
    (withResolution urd code).toNat = urd.toNat % 64 + code.toNat * 64 := by
  have hlow : (urd &&& 0x3F#8).toNat = urd.toNat % 64 := Nat.and_two_pow_sub_one_eq_mod urd.toNat 6
  have htop : (code.setWidth 8 <<< 6).toNat = code.toNat * 64 := by
    rw [BitVec.toNat_shiftLeft, BitVec.toNat_setWidth, Nat.shiftLeft_eq]
    omega
  have hsum := Nat.two_pow_add_eq_or_of_lt (i := 6) (Nat.mod_lt urd.toNat (by decide)) code.toNat
  rw [withResolution, BitVec.toNat_or, hlow, htop, Nat.or_comm, Nat.mul_comm, ← hsum, Nat.add_comm]

theorem eq_withResolution {urd v : Byte} {code : BitVec 2} (h : v.toNat = urd.toNat % 64 + code.toNat * 64) :
    withResolution urd code = v := BitVec.eq_of_toNat_eq ((withResolution_toNat urd code).trans h.symm)

/-- Settles O51: the byte read, or 0 for a timeout, goes back with the code on top, whatever it is. -/
theorem setresRewritesTheResolution : Obligations.SetresRewritesTheResolution := by
  refine ⟨decode_setres, fun s code t rx rxR clk clkR evs hs ha => ⟨fun u v hd hv => ?_, fun bs v hd hv => ?_⟩⟩
  · rw [exec_setres, readUser_delivers hs ha hd, concludeSetres, eq_withResolution hv]
    rfl
  · have hv : v.toNat = (0#8).toNat % 64 + code.toNat * 64 := by simpa using hv
    rw [exec_setres, readUser_timesOut hs ha hd, concludeSetres, eq_withResolution hv]
    rfl

end Sys2Proof.Machine
end

section
/-! RDSN from its start to its end (42_protocol.md R177): what the checksums of a page decide, what page A leads to, and the ends of
either page as whole next states. -/

namespace Sys2Proof.Machine

/-! ### The checksums of a page, in order -/

/-- Where all checksums fit, ACC and CRCOK are what the last one left. -/
theorem validateAll_fits {checks : List (List Byte × Byte)} (hne : checks ≠ []) (h : ∀ c ∈ checks, crc c.1 = c.2) (s : State) :
    validateAll checks s = ({ s with acc := crc (checks.getLast hne).1, crcok := true }, true) := by
  induction checks generalizing s with
  | nil => exact absurd rfl hne
  | cons c rest ih =>
    obtain ⟨hc, hrest⟩ := List.forall_mem_cons.1 h
    rw [validateAll, if_pos (validates_iff.2 hc), validate_of_fits s hc]
    cases rest with
    | nil => rfl
    | cons c' rest => exact ih (List.cons_ne_nil c' rest) hrest _

/-- The first checksum that does not fit ends the validations. -/
theorem validateAll_mismatch {checks : List (List Byte × Byte)} {k : Nat} (hk : k < checks.length)
    (hfit : ∀ j (hj : j < k), crc checks[j].1 = checks[j].2) (hbad : crc checks[k].1 ≠ checks[k].2) (s : State) :
    validateAll checks s = ({ s with acc := crc checks[k].1, crcok := false }, false) := by
  induction checks generalizing s k with
  | nil => simp at hk
  | cons c rest ih =>
    cases k with
    | zero =>
      have hc : crc c.1 ≠ c.2 := hbad
      rw [validateAll, if_neg (mt validates_iff.1 hc), validate_of_mismatch s hc]
      rfl
    | succ k =>
      have hc : crc c.1 = c.2 := hfit 0 (Nat.succ_pos k)
      rw [validateAll, if_pos (validates_iff.2 hc), ih (Nat.lt_of_succ_lt_succ hk) (fun j hj => hfit (j + 1) (by omega)) hbad]
      rfl

/-- The state after a page's checksums passed: ACC and CRCOK hold the last check, where one is made (42_protocol.md R177). -/
def State.checked (s : State) (lastData : List Byte) : State :=
  { s with
    acc := if s.params.snCrcCheck then crc lastData else s.acc
    crcok := if s.params.snCrcCheck then true else s.crcok }

theorem checkPage_fits {checks : List (List Byte × Byte)} (hne : checks ≠ []) {s : State}
    (h : s.params.snCrcCheck = true → ∀ c ∈ checks, crc c.1 = c.2) :
    checkPage checks s = (s.checked (checks.getLast hne).1, true) := by
  cases hp : s.params.snCrcCheck with
  | true => simp [checkPage, hp, State.checked, validateAll_fits hne (h hp)]
  | false => simp [checkPage, hp, State.checked]

theorem checkPage_mismatch {checks : List (List Byte × Byte)} {s : State} (hp : s.params.snCrcCheck = true) {k : Nat}
    (hk : k < checks.length) (hfit : ∀ j (hj : j < k), crc checks[j].1 = checks[j].2) (hbad : crc checks[k].1 ≠ checks[k].2) :
    checkPage checks s = ({ s with acc := crc checks[k].1, crcok := false }, false) := by
  rw [checkPage, if_pos hp, validateAll_mismatch hk hfit hbad]

/-! ### The checksums of the bytes received -/

/-- Checksum `j` of page A: a data byte and the byte after it. -/
def pageACheck (a : List Byte) (j : Nat) : List Byte × Byte := ([a.getD (2 * j) 0#8], a.getD (2 * j + 1) 0#8)

/-- Checksum `j` of page B: two data bytes and the byte after them. -/
def pageBCheck (b : List Byte) (j : Nat) : List Byte × Byte :=
  ([b.getD (3 * j) 0#8, b.getD (3 * j + 1) 0#8], b.getD (3 * j + 2) 0#8)

theorem pageAChecks_padded (a : List Byte) : pageAChecks (padded a) = (List.range 4).map (pageACheck a) := by
  simp [pageAChecks, pageACheck, List.range_succ]

theorem pageBChecks_padded (b : List Byte) : pageBChecks (padded b) = (List.range 2).map (pageBCheck b) := by
  simp [pageBChecks, pageBCheck, List.range_succ]

/-- All the checksums of page A fit. -/
def PageAFits (a : List Byte) : Prop := ∀ j < 4, crc [a.getD (2 * j) 0#8] = a.getD (2 * j + 1) 0#8

theorem PageAFits.checks {a : List Byte} (h : PageAFits a) : ∀ c ∈ pageAChecks (padded a), crc c.1 = c.2 := by
  simpa [PageAFits, pageAChecks_padded, pageACheck] using h

/-! ### What follows the pages -/

/-- The state in which page B begins, after the bytes `a` of page A passed at `s`. -/
def State.pastPageA (s : State) (a : List Byte) : State :=
  { s.checked [a.getD 6 0#8] with latch := #v[a.getD 0 0#8, a.getD 2 0#8, a.getD 4 0#8, a.getD 6 0#8], page := .b }

theorem afterPageA_fits {s : State} {a : List Byte} (hrb : s.rb = padded a) (h : s.params.snCrcCheck = true → PageAFits a) :
    afterPageA s = serialPageB (s.pastPageA a) := by
  have hc := checkPage_fits (checks := pageAChecks (padded a)) (List.cons_ne_nil _ _) fun hp => (h hp).checks
  rw [afterPageA_eq, hrb, hc, if_pos rfl]
  simp [State.latchPageA, State.checked, State.pastPageA, pageAChecks, pageAData, hrb]

theorem afterPageA_mismatch {s : State} {a : List Byte} (hrb : s.rb = padded a) (hp : s.params.snCrcCheck = true) {k : Nat}
    (hk : k < 4) (hfit : ∀ j < k, crc [a.getD (2 * j) 0#8] = a.getD (2 * j + 1) 0#8)
    (hbad : crc [a.getD (2 * k) 0#8] ≠ a.getD (2 * k + 1) 0#8) :
    afterPageA s = { s with acc := crc [a.getD (2 * k) 0#8], crcok := false }.finish .checksumMismatch := by
  have hc := checkPage_mismatch (checks := (List.range 4).map (pageACheck a)) hp (k := k)
    (by rwa [List.length_map, List.length_range]) (by simpa [pageACheck]) (by simpa [pageACheck])
  rw [afterPageA_eq, hrb, pageAChecks_padded, hc, if_neg (by simp)]
  simp [pageACheck, hrb]

theorem concludeSerial_fits {s : State} (h : s.params.snCrcCheck = true → ∀ c ∈ pageBChecks s.rb, crc c.1 = c.2) :
    concludeSerial s = { s.checked [s.rb[3], s.rb[4]] with sn := reassemble s.latch s.rb }.finish .none := by
  have hc := checkPage_fits (checks := pageBChecks s.rb) (List.cons_ne_nil _ _) h
  rw [concludeSerial_eq, hc]
  rfl

theorem concludeSerial_mismatch {s : State} {b : List Byte} (hrb : s.rb = padded b) (hp : s.params.snCrcCheck = true) {k : Nat}
    (hk : k < 2) (hfit : ∀ j < k, crc [b.getD (3 * j) 0#8, b.getD (3 * j + 1) 0#8] = b.getD (3 * j + 2) 0#8)
    (hbad : crc [b.getD (3 * k) 0#8, b.getD (3 * k + 1) 0#8] ≠ b.getD (3 * k + 2) 0#8) :
    concludeSerial s = { s with
      acc := crc [b.getD (3 * k) 0#8, b.getD (3 * k + 1) 0#8], crcok := false }.finish .checksumMismatch := by
  have hc := checkPage_mismatch (checks := (List.range 2).map (pageBCheck b)) hp (k := k)
    (by rwa [List.length_map, List.length_range]) (by simpa [pageBCheck]) (by simpa [pageBCheck])
  rw [concludeSerial_eq, hrb, pageBChecks_padded, hc, if_neg (by simp)]
  simp [pageBCheck, hrb]

/-! ### The reads of the pages -/

theorem exec_rdsn_begun {s : State} (hs : s.inTransfer = false) : exec .rdsn s = .next (serialPageA s.clearSerial) := by
  rw [exec_rdsn, opening_begun hs]
  rfl

section Pages

variable {s : State} {t : Nat} {rx rxR : List (Option Byte)} {clk clkR : List Nat} {bs : List Byte} {evs : List Event}

theorem serialPageA_delivers (hs : s.inTransfer = false) (ha : Answered s t rx clk rxR clkR)
    (hd : Delivers s.params.w (t % 2 ^ s.params.w) 8 rx clk bs evs) : serialPageA s =
      afterPageA { afterRead s [0xFA#8, 0x0F#8] 8 true t bs evs rxR clkR with ph := .post } := by
  rw [serialPageA_eq, xfer_delivers cmdPageA 8 true s t rx rxR clk clkR bs evs hs ha hd]
  rfl

theorem serialPageA_timesOut (hs : s.inTransfer = false) (ha : Answered s t rx clk rxR clkR)
    (hd : TimesOut s.params.w (t % 2 ^ s.params.w) 8 rx clk bs evs) : serialPageA s =
      ended (afterTimeout s [0xFA#8, 0x0F#8] 8 true t bs evs rxR clkR) .timeout := by
  rw [serialPageA_eq, xfer_timesOut cmdPageA 8 true s t rx rxR clk clkR bs evs hs ha hd]
  rfl

theorem serialPageB_delivers (hs : s.inTransfer = false) (ha : Answered s t rx clk rxR clkR)
    (hd : Delivers s.params.w (t % 2 ^ s.params.w) 6 rx clk bs evs) : serialPageB s =
      concludeSerial { afterRead s [0xFC#8, 0xC9#8] 6 true t bs evs rxR clkR with ph := .post } := by
  rw [serialPageB_eq, xfer_delivers cmdPageB 6 true s t rx rxR clk clkR bs evs hs ha hd]
  rfl

theorem serialPageB_timesOut (hs : s.inTransfer = false) (ha : Answered s t rx clk rxR clkR)
    (hd : TimesOut s.params.w (t % 2 ^ s.params.w) 6 rx clk bs evs) : serialPageB s =
      ended (afterTimeout s [0xFC#8, 0xC9#8] 6 true t bs evs rxR clkR) .timeout := by
  rw [serialPageB_eq, xfer_timesOut cmdPageB 6 true s t rx rxR clk clkR bs evs hs ha hd]
  rfl

theorem serialPageA_mismatch {k : Nat} (hs : s.inTransfer = false) (ha : Answered s t rx clk rxR clkR)
    (hd : Delivers s.params.w (t % 2 ^ s.params.w) 8 rx clk bs evs) (hp : s.params.snCrcCheck = true) (hk : k < 4)
    (hfit : ∀ j < k, crc [bs.getD (2 * j) 0#8] = bs.getD (2 * j + 1) 0#8)
    (hbad : crc [bs.getD (2 * k) 0#8] ≠ bs.getD (2 * k + 1) 0#8) :
    serialPageA s = ended { afterRead s [0xFA#8, 0x0F#8] 8 true t bs evs rxR clkR with
      acc := crc [bs.getD (2 * k) 0#8], crcok := false } .checksumMismatch := by
  rw [serialPageA_delivers hs ha hd]
  refine afterPageA_mismatch rfl ?_ hk hfit hbad
  exact hp

theorem serialPageB_fits (hs : s.inTransfer = false) (ha : Answered s t rx clk rxR clkR)
    (hd : Delivers s.params.w (t % 2 ^ s.params.w) 6 rx clk bs evs)
    (h : s.params.snCrcCheck = true → ∀ c ∈ pageBChecks (padded bs), crc c.1 = c.2) :
    serialPageB s = ended { afterRead (s.checked [bs.getD 3 0#8, bs.getD 4 0#8]) [0xFC#8, 0xC9#8] 6 true t bs evs rxR clkR with
      sn := reassemble s.latch (padded bs) } .none := by
  rw [serialPageB_delivers hs ha hd]
  refine (concludeSerial_fits ?_).trans ?_
  · exact h
  · simp [State.checked, afterRead, State.finish, ended]

theorem serialPageB_mismatch {k : Nat} (hs : s.inTransfer = false) (ha : Answered s t rx clk rxR clkR)
    (hd : Delivers s.params.w (t % 2 ^ s.params.w) 6 rx clk bs evs) (hp : s.params.snCrcCheck = true) (hk : k < 2)
    (hfit : ∀ j < k, crc [bs.getD (3 * j) 0#8, bs.getD (3 * j + 1) 0#8] = bs.getD (3 * j + 2) 0#8)
    (hbad : crc [bs.getD (3 * k) 0#8, bs.getD (3 * k + 1) 0#8] ≠ bs.getD (3 * k + 2) 0#8) :
    serialPageB s = ended { afterRead s [0xFC#8, 0xC9#8] 6 true t bs evs rxR clkR with
      acc := crc [bs.getD (3 * k) 0#8, bs.getD (3 * k + 1) 0#8], crcok := false } .checksumMismatch := by
  rw [serialPageB_delivers hs ha hd]
  refine concludeSerial_mismatch rfl ?_ hk hfit hbad
  exact hp

end Pages

/-- RDSN where page B begins: begun at `s`, with the bytes `a` of page A arrived and passed. -/
def State.atPageB (s : State) (t : Nat) (a : List Byte) (evs : List Event) (rxR : List (Option Byte)) (clkR : List Nat) : State :=
  { afterRead s.clearSerial [0xFA#8, 0x0F#8] 8 true t a evs rxR clkR with ph := .post }.pastPageA a

theorem exec_rdsn_pageB {s : State} {t : Nat} {rx rxR : List (Option Byte)} {clk clkR : List Nat} {a : List Byte}
    {evs : List Event} (hs : s.inTransfer = false) (ha : Answered s t rx clk rxR clkR)
    (hd : Delivers s.params.w (t % 2 ^ s.params.w) 8 rx clk a evs) (h : s.params.snCrcCheck = true → PageAFits a) :
    exec .rdsn s = .next (serialPageB (s.atPageB t a evs rxR clkR)) := by
  rw [exec_rdsn_begun hs, serialPageA_delivers (s := s.clearSerial) hs ha hd]
  exact congrArg _ (afterPageA_fits rfl h)

/-- Settles O52: page A passes, page B passes, and the bytes are put together. -/
theorem rdsnReadsTheSerialNumber : Obligations.RdsnReadsTheSerialNumber := by
  refine ⟨rfl, fun s tA tB rxA rxB rxR clkA clkB clkR evsA evsB a0 a1 a2 a3 a4 a5 a6 a7 b0 b1 b2 b3 b4 b5 hs ha hA hB hcrc =>
    ⟨_, rfl, ?_⟩⟩
  have hpageA : s.params.snCrcCheck = true → PageAFits [a0, a1, a2, a3, a4, a5, a6, a7] := by
    intro hp j hj
    obtain ⟨h0, h1, h2, h3, -, -⟩ := hcrc hp
    interval_cases j
    exacts [h0, h1, h2, h3]
  have hpageB : s.params.snCrcCheck = true → ∀ c ∈ pageBChecks (padded [b0, b1, b2, b3, b4, b5]), crc c.1 = c.2 := by
    intro hp
    obtain ⟨-, -, -, -, h4, h5⟩ := hcrc hp
    simp [pageBChecks, h4, h5]
  rw [exec_rdsn_pageB hs ha hA hpageA, serialPageB_fits (s := s.atPageB tA _ evsA _ _) rfl ⟨rfl, rfl⟩ hB hpageB]
  cases hp : s.params.snCrcCheck with
  | true =>
    obtain ⟨-, -, -, -, -, rfl⟩ := hcrc hp
    simp [State.atPageB, State.checked, State.pastPageA, State.clearSerial, ended, afterRead, hp, reassemble]
  | false => simp [State.atPageB, State.checked, State.pastPageA, State.clearSerial, ended, afterRead, hp, reassemble]

/-- Settles O53: the first bad checksum of page A ends RDSN before page B is read; that of page B comes after a good page A. -/
theorem rdsnStopsAtTheFirstBadChecksum : Obligations.RdsnStopsAtTheFirstBadChecksum := by
  intro s tA tB rxA rxB rxR clkA clkB clkR evsA evsB a b hs hp hA
  refine ⟨fun k hk ha hfit hbad => ?_, fun hB ha hpageA k hk hfit hbad => ?_⟩
  · rw [exec_rdsn_begun hs, serialPageA_mismatch (s := s.clearSerial) hs ha hA hp hk hfit hbad, padded_nil]
    rfl
  · rw [exec_rdsn_pageB hs ha hA fun _ => hpageA,
      serialPageB_mismatch (s := s.atPageB tA a evsA _ _) rfl ⟨rfl, rfl⟩ hB hp hk hfit hbad, padded_nil]
    simp [State.atPageB, State.checked, State.pastPageA, State.clearSerial, ended, afterRead]

/-- Settles O54: page A timed out, or page B after a good page A. -/
theorem rdsnReportsTimeoutOfEitherPage : Obligations.RdsnReportsTimeoutOfEitherPage := by
  intro s tA tB rxA rxB rxR clkA clkB clkR evsA evsB a b hs
  refine ⟨fun hA ha => ?_, fun hA hB ha hpageA => ?_⟩
  · rw [exec_rdsn_begun hs, serialPageA_timesOut (s := s.clearSerial) hs ha hA, padded_nil]
    rfl
  · rw [exec_rdsn_pageB hs ha hA hpageA, serialPageB_timesOut (s := s.atPageB tA a evsA _ _) rfl ⟨rfl, rfl⟩ hB, padded_nil]
    rfl

end Sys2Proof.Machine
end

section
/-! No protocol operation depends on what an earlier one left (42_protocol.md R170): a read runs the same over any block, and what
follows it looks at the bytes read and nothing else. -/

namespace Sys2Proof.Machine

/-! ### A read over any block -/

/-- The registers and answers a read moves, as they stand in `s`, over the block `o`, whose history goes before. -/
def State.over (s o : State) : State :=
  { o with
    held := s.held
    rlen := s.rlen
    rb := s.rb
    t0 := s.t0
    ph := s.ph
    cnt := s.cnt
    events := o.events ++ s.events
    rx := s.rx
    clock := s.clock }

/-- The transfer as it stands, over the block `o`. -/
def Transfer.over (o : State) : Transfer → Transfer
  | .ok s => .ok (s.over o)
  | .timeout s => .timeout (s.over o)
  | .pending s => .pending (s.over o)

theorem takeByte_over (s o : State) (b : Byte) (l : List (Option Byte)) :
    (s.over o).takeByte b l = (s.takeByte b l).over o := by
  simp [State.over, State.takeByte]

theorem pollEmpty_over {s o : State} (hp : s.params = o.params) (l : List (Option Byte)) (t : Nat) (ts : List Nat) :
    (s.over o).pollEmpty l t ts = (s.pollEmpty l t ts).over o := by
  simp [State.over, State.pollEmpty, State.sampled, hp]

theorem timedOut_over {s o : State} (hp : s.params = o.params) (t : Nat) :
    timedOut (s.over o).params.w (s.over o).t0 ((s.over o).sampled t) = timedOut s.params.w s.t0 (s.sampled t) := by
  simp [State.over, State.sampled, hp]

theorem pollLoop_over (n : Nat) (rel : Bool) (s o : State) (hp : s.params = o.params) :
    pollLoop n rel s.rx (s.over o) = (pollLoop n rel s.rx s).over o := by
  revert hp
  refine pollLoop_induction (motive := fun s r => s.params = o.params → pollLoop n rel s.rx (s.over o) = r.over o)
    ?done ?waits ?late ?byte ?early s
  case done => exact fun s hc _ => pollLoop_done n rel s.rx (s.over o) hc
  case waits =>
    rintro s hc (hr | ⟨l, hr, hk⟩) _
    · exact hr ▸ pollLoop_nil n rel (s.over o) hc
    · exact hr ▸ pollLoop_stalled n rel l (s.over o) hc hk
  case late =>
    intro s l t ts hc hr hk he hp
    rw [hr, pollLoop_late n rel l (s.over o) t ts hc hk ((timedOut_over hp t).trans he), pollEmpty_over hp]
    rfl
  case byte =>
    intro s b l r hc hr ih hp
    rw [hr, pollLoop_byte n rel b l (s.over o) hc, takeByte_over]
    exact ih hp
  case early =>
    intro s l t ts r hc hr hk he ih hp
    rw [hr, pollLoop_early n rel l (s.over o) t ts hc hk ((timedOut_over hp t).trans he), pollEmpty_over hp]
    exact ih hp

/-! ### Two blocks given the same answers -/

/-- Two running blocks that agree in their parameters, their answers and ERR, outside a read. -/
structure Alike (s s' : State) : Prop where
  params : s.params = s'.params
  rx : s.rx = s'.rx
  clock : s.clock = s'.clock
  err : s.err = s'.err
  busy : s.busy = true
  busy' : s'.busy = true
  begun : s.inTransfer = false
  begun' : s'.inTransfer = false

/-- The state in which a read begun at `s` enters its poll loop, with the calls of the read alone on record. -/
def State.requestedAlone (s : State) (cmd : List Byte) (n : Nat) (rel : Bool) (t : Nat) (ts : List Nat) : State :=
  State.requested { s with events := [] } cmd n rel t ts

theorem requestedAlone_over {s o : State} (hp : s.params = o.params) (hr : s.rx = o.rx) (cmd : List Byte) (n : Nat) (rel : Bool)
    (t : Nat) (ts : List Nat) : (s.requestedAlone cmd n rel t ts).over o = o.requested cmd n rel t ts := by
  simp [State.requestedAlone, State.requested, State.over, State.beginRead, State.sampleStart, State.sampled, hp, hr]

/-- A read begun on a block with the parameters and the answers of `s` is the read of `s` over that block. -/
theorem xfer_over {s o : State} (hp : s.params = o.params) (hr : s.rx = o.rx) (ho : o.inTransfer = false) (cmd : List Byte)
    (n : Nat) (rel : Bool) {t : Nat} {ts : List Nat} (hc : o.clock = t :: ts) :
    xfer cmd n rel o =
      (pollLoop n rel (s.requestedAlone cmd n rel t ts).rx (s.requestedAlone cmd n rel t ts)).over o := by
  have hrx : (o.requested cmd n rel t ts).rx = (s.requestedAlone cmd n rel t ts).rx := hr.symm
  rw [xfer_requested cmd n rel ho hc, hrx, ← requestedAlone_over hp hr]
  exact pollLoop_over n rel _ o hp

/-- Two such blocks wait for the start sample, or poll alike. -/
theorem xfer_alike {s s' : State} (h : Alike s s') (cmd : List Byte) (n : Nat) (rel : Bool) :
    (xfer cmd n rel s = .pending (s.beginRead cmd n rel) ∧ xfer cmd n rel s' = .pending (s'.beginRead cmd n rel)) ∨
      ∃ c : State, xfer cmd n rel s = (pollLoop n rel c.rx c).over s ∧ xfer cmd n rel s' = (pollLoop n rel c.rx c).over s' := by
  cases hc : s.clock with
  | nil => exact .inl ⟨xfer_unsampled cmd n rel h.begun hc, xfer_unsampled cmd n rel h.begun' (h.clock.symm.trans hc)⟩
  | cons t ts =>
    exact .inr ⟨s.requestedAlone cmd n rel t ts, xfer_over rfl rfl h.begun cmd n rel hc,
      xfer_over h.params h.rx h.begun' cmd n rel (h.clock.symm.trans hc)⟩

/-! ### The same course -/

/-- After the histories `l` and `l'` the same calls were made, and what a read moves and the end of an operation stand alike. -/
structure SameCourse (l l' : List Event) (t t' : State) : Prop where
  busy : t.busy = t'.busy
  err : t.err = t'.err
  held : t.held = t'.held
  rlen : t.rlen = t'.rlen
  rb : t.rb = t'.rb
  ph : t.ph = t'.ph
  t0 : t.ph ≠ .req ∨ t.busy = false → t.t0 = t'.t0
  rx : t.rx = t'.rx
  clock : t.clock = t'.clock
  events : ∃ evs, t.events = l ++ evs ∧ t'.events = l' ++ evs

theorem Alike.beginRead {s s' : State} (h : Alike s s') (cmd : List Byte) (n : Nat) (rel : Bool) :
    SameCourse s.events s'.events (s.beginRead cmd n rel) (s'.beginRead cmd n rel) where
  busy := h.busy.trans h.busy'.symm
  err := h.err
  held := rfl
  rlen := rfl
  rb := rfl
  ph := rfl
  t0 := by simp [h.busy]
  rx := h.rx
  clock := h.clock
  events := ⟨_, List.append_assoc .., List.append_assoc ..⟩

theorem Alike.over {s s' : State} (h : Alike s s') (u : State) : SameCourse s.events s'.events (u.over s) (u.over s') where
  busy := h.busy.trans h.busy'.symm
  err := h.err
  held := rfl
  rlen := rfl
  rb := rfl
  ph := rfl
  t0 := fun _ => rfl
  rx := rfl
  clock := rfl
  events := ⟨u.events, rfl, rfl⟩

theorem SameCourse.finish {l l' : List Event} {t t' : State} (h : SameCourse l l' t t') (t0 : t.t0 = t'.t0) (e : ErrKind) :
    SameCourse l l' (t.finish e) (t'.finish e) :=
  { h with busy := rfl, err := rfl, ph := rfl, t0 := fun _ => t0 }

/-- Calls after the same course. -/
theorem SameCourse.append {l l' evs : List Event} {t t' : State} (h : SameCourse (l ++ evs) (l' ++ evs) t t') :
    SameCourse l l' t t' := by
  obtain ⟨evs', he, he'⟩ := h.events
  exact { h with events := ⟨evs ++ evs', by simp [he], by simp [he']⟩ }

/-! ### What follows a read -/

theorem over_keeps (u o : State) : TransferKeeps o (u.over o) := by constructor <;> rfl

/-- What two alike blocks make of a read: they wait after the same course, or its end stands the same over both. -/
theorem conclude_alike {s s' : State} (h : Alike s s') (cmd : List Byte) (n : Nat) (rel : Bool) {late good : State → State}
    {P : State → State → Prop}
    (waits : ∀ t t', SameCourse s.events s'.events t t' → TransferKeeps s t → TransferKeeps s' t' → t.busy = true → P t t')
    (timesOut : ∀ u : State, P (late (u.over s)) (late (u.over s')))
    (succeeds : ∀ u : State, u.inTransfer = false → P (good (u.over s)) (good (u.over s'))) :
    P ((xfer cmd n rel s).conclude late good) ((xfer cmd n rel s').conclude late good) := by
  rcases xfer_alike h cmd n rel with ⟨hx, hx'⟩ | ⟨c, hx, hx'⟩
  · rw [hx, hx']
    exact waits _ _ (h.beginRead cmd n rel) (beginRead_keeps s cmd n rel) (beginRead_keeps s' cmd n rel) h.busy
  · have he := pollLoop_ended n rel c
    rw [hx, hx']
    cases hr : pollLoop n rel c.rx c with
    | ok u =>
      rw [hr] at he
      obtain ⟨v, rfl⟩ := he
      exact succeeds (v.readDone n rel) rfl
    | timeout u => exact timesOut u
    | pending u => exact waits _ _ (h.over u) (over_keeps u s) (over_keeps u s') h.busy

/-! ### MEAST and MEASH -/

/-- The course of a measurement, with the registers it writes: ACC and CRCOK unless the read timed out. -/
structure SameReading (l l' : List Event) (t t' : State) : Prop extends SameCourse l l' t t' where
  raw : t.raw = t'.raw
  val : t.val = t'.val
  checksum : t.busy = false → t.err ≠ .timeout → t.acc = t'.acc ∧ t.crcok = t'.crcok

theorem concludeMeasurement_alike {s s' : State} (h : Alike s s') (hraw : s.raw = s'.raw) (hval : s.val = s'.val)
    (dec : Half → Int) (u : State) :
    SameReading s.events s'.events (concludeMeasurement dec (u.over s)) (concludeMeasurement dec (u.over s')) := by
  by_cases hcrc : crc [u.rb[0], u.rb[1]] = u.rb[2]
  · rw [concludeMeasurement_fits dec (s := u.over s) hcrc, concludeMeasurement_fits dec (s := u.over s') hcrc]
    exact { (h.over u).finish rfl .none with raw := rfl, val := rfl, checksum := fun _ _ => ⟨rfl, rfl⟩ }
  · rw [concludeMeasurement_mismatch dec (s := u.over s) hcrc, concludeMeasurement_mismatch dec (s := u.over s') hcrc]
    exact { (h.over u).finish rfl .checksumMismatch with raw := hraw, val := hval, checksum := fun _ _ => ⟨rfl, rfl⟩ }

theorem Alike.clearReading {s s' : State} (h : Alike s s') : Alike s.clearReading s'.clearReading := { h with busy := h.busy }

theorem runMeasurement_alike {s s' : State} (h : Alike s s') (cmd : List Byte) (dec : Half → Int) :
    SameReading s.events s'.events (runMeasurement cmd dec s) (runMeasurement cmd dec s') := by
  have hc := h.clearReading
  simp only [runMeasurement_eq, opening_begun h.begun, opening_begun h.begun']
  refine conclude_alike hc cmd 3 true (fun t t' ht hk hk' hb => ?waits) (fun u => ?timesOut)
    (fun u _ => concludeMeasurement_alike hc rfl rfl dec u)
  case waits =>
    exact { ht with raw := hk.raw.trans hk'.raw.symm, val := hk.val.trans hk'.val.symm, checksum := by simp [hb] }
  case timesOut => exact { (hc.over u).finish rfl .timeout with raw := rfl, val := rfl, checksum := fun _ he => absurd rfl he }

/-! ### RDUR and SETRES -/

/-- The course of an operation on the user register, with URD once it has ended. -/
structure SameUser (l l' : List Event) (t t' : State) : Prop extends SameCourse l l' t t' where
  urd : t.busy = false → t.urd = t'.urd

theorem concludeRdur_alike {s s' : State} (h : Alike s s') (v : Byte) (u : State) :
    SameUser s.events s'.events (concludeRdur v (u.over s)) (concludeRdur v (u.over s')) :=
  { (h.over u).finish rfl (absence v) with urd := fun _ => rfl }

theorem rdur_alike {s s' : State} (h : Alike s s') (rel : Bool) :
    SameUser s.events s'.events (readUser rel concludeRdur s) (readUser rel concludeRdur s') := by
  simp only [readUser_eq]
  exact conclude_alike h cmdReadUser 1 rel (fun t t' ht _ _ hb => { ht with urd := by simp [hb] }) (concludeRdur_alike h 0#8)
    (fun u _ => concludeRdur_alike h u.rb[0] u)

/-- The course of SETRES, with URD and URW once it has ended. -/
structure SameResolution (l l' : List Event) (t t' : State) : Prop extends SameUser l l' t t' where
  urw : t.busy = false → t.urw = t'.urw

theorem concludeSetres_alike {s s' : State} (h : Alike s s') (code : BitVec 2) (v : Byte) (u : State) :
    SameResolution s.events s'.events (concludeSetres code v (u.over s)) (concludeSetres code v (u.over s')) where
  __ := (h.over u).finish rfl (absence v)
  held := rfl
  events := ⟨u.events ++ writePhase (cmdWriteUser (withResolution v code)) true, List.append_assoc .., List.append_assoc ..⟩
  urd := fun _ => rfl
  urw := fun _ => rfl

theorem setres_alike {s s' : State} (h : Alike s s') (code : BitVec 2) :
    SameResolution s.events s'.events (readUser false (concludeSetres code) s) (readUser false (concludeSetres code) s') := by
  simp only [readUser_eq]
  exact conclude_alike h cmdReadUser 1 false (fun t t' ht _ _ hb => { ht with urd := by simp [hb], urw := by simp [hb] })
    (concludeSetres_alike h code 0#8) (fun u _ => concludeSetres_alike h code u.rb[0] u)

/-! ### RDSN -/

/-- The course of RDSN, with the registers it writes: ACC and CRCOK where checksums are tested (`check`), once page A has arrived. -/
structure SameSerial (check : Bool) (l l' : List Event) (t t' : State) : Prop extends SameCourse l l' t t' where
  sn : t.sn = t'.sn
  page : t.page = t'.page
  checksum : t.busy = false → check = true → ¬(t.err = .timeout ∧ t.page = .a) → t.acc = t'.acc ∧ t.crcok = t'.crcok

/-- What validations leave in ACC and CRCOK does not depend on the state. -/
theorem validateAll_alike {checks : List (List Byte × Byte)} (hne : checks ≠ []) :
    ∃ a ok, ∀ s, validateAll checks s = ({ s with acc := a, crcok := ok }, ok) := by
  induction checks with
  | nil => exact absurd rfl hne
  | cons c rest ih =>
    by_cases hc : crc c.1 = c.2
    · have hskip (s : State) : validateAll (c :: rest) s = validateAll rest { s with acc := crc c.1, crcok := true } := by
        rw [validateAll, if_pos (validates_iff.2 hc), validate_of_fits s hc]
      simp only [hskip]
      cases rest with
      | nil => exact ⟨crc c.1, true, fun _ => rfl⟩
      | cons c' rest =>
        obtain ⟨a, ok, h⟩ := ih (List.cons_ne_nil c' rest)
        exact ⟨a, ok, fun s => h _⟩
    · refine ⟨crc c.1, false, fun s => ?_⟩
      rw [validateAll, if_neg (mt validates_iff.1 hc), validate_of_mismatch s hc]

/-- Over alike blocks a page passes or fails alike, and where its checksums are tested they leave the same in ACC and CRCOK. -/
theorem checkPage_over {s s' : State} (h : Alike s s') {checks : Bytes8 → List (List Byte × Byte)} (hne : ∀ rb, checks rb ≠ [])
    (u : State) : ∃ a c a' c' ok,
      checkPage (checks (u.over s).rb) (u.over s) = (u.over { s with acc := a, crcok := c }, ok) ∧
      checkPage (checks (u.over s').rb) (u.over s') = (u.over { s' with acc := a', crcok := c' }, ok) ∧
      (s.params.snCrcCheck = true → a = a' ∧ c = c') := by
  cases hp : s.params.snCrcCheck with
  | true =>
    have hp' : s'.params.snCrcCheck = true := h.params ▸ hp
    obtain ⟨a, ok, hall⟩ := validateAll_alike (hne u.rb)
    exact ⟨a, ok, a, ok, ok, (if_pos hp).trans (hall (u.over s)), (if_pos hp').trans (hall (u.over s')), fun _ => ⟨rfl, rfl⟩⟩
  | false =>
    have hp' : s'.params.snCrcCheck = false := h.params ▸ hp
    exact ⟨s.acc, s.crcok, s'.acc, s'.crcok, true, if_neg (Bool.eq_false_iff.1 hp), if_neg (Bool.eq_false_iff.1 hp'), nofun⟩

theorem concludeSerial_alike {s s' : State} (h : Alike s s') (hsn : s.sn = s'.sn) (hpage : s.page = s'.page)
    (hlatch : s.latch = s'.latch) (u : State) :
    SameSerial s.params.snCrcCheck s.events s'.events (concludeSerial (u.over s)) (concludeSerial (u.over s')) := by
  obtain ⟨a, c, a', c', ok, hc, hc', hsum⟩ := checkPage_over h (checks := pageBChecks) (fun _ => List.cons_ne_nil _ _) u
  rw [concludeSerial_eq, concludeSerial_eq, hc, hc']
  cases ok with
  | true =>
    exact { (h.over u).finish rfl .none with
      sn := congrArg (reassemble · u.rb) hlatch, page := hpage, checksum := fun _ hp _ => hsum hp }
  | false =>
    exact { (h.over u).finish rfl .checksumMismatch with sn := hsn, page := hpage, checksum := fun _ hp _ => hsum hp }

theorem serialPageB_alike {s s' : State} (h : Alike s s') (hsn : s.sn = s'.sn) (hpage : s.page = s'.page)
    (hlatch : s.latch = s'.latch) (hsum : s.params.snCrcCheck = true → s.acc = s'.acc ∧ s.crcok = s'.crcok) :
    SameSerial s.params.snCrcCheck s.events s'.events (serialPageB s) (serialPageB s') := by
  simp only [serialPageB_eq]
  refine conclude_alike h cmdPageB 6 true (fun t t' ht hk hk' hb => ?waits) (fun u => ?timesOut)
    (fun u _ => concludeSerial_alike h hsn hpage hlatch u)
  case waits =>
    exact { ht with
      sn := hk.sn.trans (hsn.trans hk'.sn.symm), page := hk.page.trans (hpage.trans hk'.page.symm), checksum := by simp [hb] }
  case timesOut =>
    exact { (h.over u).finish rfl .timeout with sn := hsn, page := hpage, checksum := fun _ hp _ => hsum hp }

/-- Page B begins on alike blocks if page A did. -/
theorem Alike.latchPageA {s s' u : State} (h : Alike s s') (hu : u.inTransfer = false) :
    Alike (u.over s).latchPageA (u.over s').latchPageA where
  __ := h
  rx := rfl
  clock := rfl
  begun := hu
  begun' := hu

theorem afterPageA_alike {s s' : State} (h : Alike s s') (hsn : s.sn = s'.sn) (hpage : s.page = s'.page) {u : State}
    (hu : u.inTransfer = false) :
    SameSerial s.params.snCrcCheck s.events s'.events (afterPageA (u.over s)) (afterPageA (u.over s')) := by
  obtain ⟨a, c, a', c', ok, hc, hc', hsum⟩ := checkPage_over h (checks := pageAChecks) (fun _ => List.cons_ne_nil _ _) u
  rw [afterPageA_eq, afterPageA_eq, hc, hc']
  cases ok with
  | true =>
    have hq : Alike { s with acc := a, crcok := c } { s' with acc := a', crcok := c' } := { h with busy := h.busy }
    have hB := serialPageB_alike (hq.latchPageA hu) hsn rfl rfl hsum
    exact { hB with events := hB.append.events }
  | false =>
    exact { (h.over u).finish rfl .checksumMismatch with sn := hsn, page := hpage, checksum := fun _ hp _ => hsum hp }

theorem Alike.clearSerial {s s' : State} (h : Alike s s') : Alike s.clearSerial s'.clearSerial := { h with busy := h.busy }

theorem rdsn_alike {s s' : State} (h : Alike s s') : SameSerial s.params.snCrcCheck s.events s'.events
    (readSerial (s.opening State.clearSerial)) (readSerial (s'.opening State.clearSerial)) := by
  have hc := h.clearSerial
  rw [opening_begun h.begun, opening_begun h.begun', readSerial_pageA rfl, readSerial_pageA rfl, serialPageA_eq, serialPageA_eq]
  refine conclude_alike hc cmdPageA 8 true (fun t t' ht hk hk' hb => ?waits) (fun u => ?timesOut)
    (fun u hu => afterPageA_alike hc rfl rfl hu)
  case waits =>
    exact { ht with sn := hk.sn.trans hk'.sn.symm, page := hk.page.trans hk'.page.symm, checksum := by simp [hb] }
  case timesOut =>
    exact { (hc.over u).finish rfl .timeout with sn := rfl, page := rfl, checksum := fun _ _ hA => absurd ⟨rfl, rfl⟩ hA }

/-! ### Every protocol operation -/

/-- A read's course is what 42_protocol.md R170 asks of every operation, and of each read; `Rest` is what it asks of this one. -/
theorem SameCourse.and {i : Instr} {l l' : List Event} {t t' : State} (h : SameCourse l l' t t') {Rest : Prop} (hrest : Rest) :
    t.busy = t'.busy ∧ t.err = t'.err ∧ t.held = t'.held ∧ t.rx = t'.rx ∧ t.clock = t'.clock ∧
      (∃ evs, t.events = l ++ evs ∧ t'.events = l' ++ evs) ∧
      (i ≠ .srst → t.rlen = t'.rlen ∧ t.rb = t'.rb ∧ t.ph = t'.ph ∧ (t.ph ≠ .req → i ≠ .rdsn → t.t0 = t'.t0)) ∧ Rest :=
  ⟨h.busy, h.err, h.held, h.rx, h.clock, h.events, fun _ => ⟨h.rlen, h.rb, h.ph, fun hph _ => h.t0 (.inl hph)⟩, hrest⟩

/-- Settles O55: each operation that reads runs alike over alike blocks; SRST reads nothing. -/
theorem protocolOperationsAreStateless : Obligations.ProtocolOperationsAreStateless := by
  intro i s1 s2 t1 t2 hi hparams hrx hclock hs1 hs2 hb1 hb2 herr he1 he2
  have h : Alike s1 s2 := ⟨hparams, hrx, hclock, herr, hb1, hb2, hs1, hs2⟩
  rcases hi with rfl | rfl | ⟨rel, rfl⟩ | ⟨code, rfl⟩ | rfl | rfl
  · cases he1
    cases he2
    have hr := runMeasurement_alike h cmdTemperature decT
    exact hr.and ⟨fun _ => ⟨hr.raw, hr.val, hr.checksum⟩, by simp, by simp, by simp⟩
  · cases he1
    cases he2
    have hr := runMeasurement_alike h cmdHumidity decH
    exact hr.and ⟨fun _ => ⟨hr.raw, hr.val, hr.checksum⟩, by simp, by simp, by simp⟩
  · cases he1
    cases he2
    have hr := rdur_alike h rel
    exact hr.and ⟨by simp, fun _ => hr.urd, by simp, by simp⟩
  · cases he1
    cases he2
    have hr := setres_alike h code
    exact hr.and ⟨by simp, by simp, fun _ hb => ⟨hr.urd hb, hr.urw hb⟩, by simp⟩
  · cases he1
    cases he2
    have hr := rdsn_alike h
    exact hr.and ⟨by simp, by simp, by simp, fun _ => ⟨hr.sn, hr.page, fun hb => hr.t0 (.inr hb), hr.checksum⟩⟩
  · cases he1
    cases he2
    exact ⟨rfl, rfl, rfl, hrx, hclock, ⟨_, rfl, rfl⟩, by simp, by simp, by simp, by simp, by simp⟩

end Sys2Proof.Machine
end

section
/-! The decoder (43_decoder.md R203 to R208): both functions are one linear shape, whose error is the remainder the shift drops; and the
operation words and meanings of DECT and DECH. -/

namespace Sys2Proof.Machine

/-! ### The linear shape of both functions -/

/-- The shift is a division by 65536 (43_decoder.md R203). -/
theorem linearDecode_eq (gain offset : Nat) (r : Half) :
    linearDecode gain offset r = (((gain * r.toNat + 32768) / 65536 : Nat) : Int) - (offset : Int) := by
  rw [linearDecode, Nat.shiftRight_eq_div_pow]

/-- The half added before the shift is the whole error, less the remainder that the shift drops (43_decoder.md R204). -/
theorem linearDecode_error (gain offset : Nat) (r : Half) :
    (linearDecode gain offset r : ℚ) / 100 - ((gain : ℚ) * r.toNat / 6553600 - (offset : ℚ) / 100) =
      1 / 200 - (((gain * r.toNat + 32768) % 65536 : Nat) : ℚ) / 6553600 := by
  have hdiv : (65536 : ℚ) * ((gain * r.toNat + 32768) / 65536 : Nat) + ((gain * r.toNat + 32768) % 65536 : Nat) =
      gain * r.toNat + 32768 := by exact_mod_cast Nat.div_add_mod (gain * r.toNat + 32768) 65536
  rw [linearDecode_eq, Int.cast_sub, Int.cast_natCast, Int.cast_natCast]
  linarith

/-- The remainder is below 65536, so the error lies in the half-open interval; a tie is a remainder of 0. -/
theorem linearDecode_accurate (gain offset : Nat) (r : Half) {e : ℚ}
    (he : e = (linearDecode gain offset r : ℚ) / 100 - ((gain : ℚ) * r.toNat / 6553600 - (offset : ℚ) / 100)) :
    (-(1 / 200 : ℚ) < e ∧ e ≤ 1 / 200) ∧ (e = 1 / 200 ↔ (gain * r.toNat + 32768) % 65536 = 0) := by
  rw [linearDecode_error] at he
  have hlt : (((gain * r.toNat + 32768) % 65536 : Nat) : ℚ) < 65536 := by exact_mod_cast Nat.mod_lt _ (by decide)
  have hnonneg : (0 : ℚ) ≤ ((gain * r.toNat + 32768) % 65536 : Nat) := Nat.cast_nonneg _
  rw [← Nat.cast_eq_zero (R := ℚ)]
  exact ⟨⟨by linarith, by linarith⟩, fun h => by linarith, fun h => by linarith⟩

theorem linearDecode_mono (gain offset : Nat) {r r' : Half} (h : r.toNat ≤ r'.toNat) :
    linearDecode gain offset r ≤ linearDecode gain offset r' := by
  have hprod : gain * r.toNat ≤ gain * r'.toNat := Nat.mul_le_mul_left gain h
  rw [linearDecode_eq, linearDecode_eq]
  omega

/-- A linear function lies between its values at the two ends of raw16. -/
theorem linearDecode_between_ends (gain offset : Nat) (r : Half) :
    linearDecode gain offset 0x0000#16 ≤ linearDecode gain offset r ∧
      linearDecode gain offset r ≤ linearDecode gain offset 0xFFFF#16 :=
  ⟨linearDecode_mono gain offset (Nat.zero_le _), linearDecode_mono gain offset (Nat.le_of_lt_succ r.isLt)⟩

/-- No value is skipped, because a step of raw16 adds less than a hundredth: the least raw16 that reaches `v` does not pass it. -/
theorem linearDecode_reaches {gain offset : Nat} (hpos : 0 < gain) (hle : gain ≤ 32768) {v : Int} (hlo : -(offset : Int) ≤ v)
    (hhi : v ≤ (gain : Int) - offset) : ∃ r : Half, linearDecode gain offset r = v := by
  obtain ⟨n, hn⟩ := Int.eq_ofNat_of_zero_le (show 0 ≤ v + offset by omega)
  have hmod := Nat.mod_lt (65536 * n - 32768 + (gain - 1)) hpos
  have hdiv := Nat.div_add_mod (65536 * n - 32768 + (gain - 1)) gain
  have hfits : (65536 * n - 32768 + (gain - 1)) / gain < 2 ^ 16 := by
    rw [Nat.div_lt_iff_lt_mul hpos]
    omega
  refine ⟨BitVec.ofNatLT ((65536 * n - 32768 + (gain - 1)) / gain) hfits, ?_⟩
  rw [linearDecode_eq, BitVec.toNat_ofNatLT]
  omega

/-- VAL holds an integer of the s16 range as it is (43_decoder.md R205). -/
theorem s16_toInt {v : Int} (hlo : -32768 ≤ v) (hhi : v ≤ 32767) : (s16 v).toInt = v :=
  BitVec.toInt_ofInt_eq_self (by decide) hlo (Int.lt_add_one_of_le hhi)

/-! ### Accuracy and range -/

/-- The shift of `decT` drops nothing exactly at the odd multiples of 0x2000: its gain is 4 times an odd number. -/
theorem tieT_iff (r : Half) : (17572 * r.toNat + 32768) % 65536 = 0 ↔
    r.toNat = 0x2000 ∨ r.toNat = 0x6000 ∨ r.toNat = 0xA000 ∨ r.toNat = 0xE000 := by
  have hr := r.isLt
  omega

/-- The same for `decH`, whose gain is 4 times an odd number too. -/
theorem tieH_iff (r : Half) : (12500 * r.toNat + 32768) % 65536 = 0 ↔
    r.toNat = 0x2000 ∨ r.toNat = 0x6000 ∨ r.toNat = 0xA000 ∨ r.toNat = 0xE000 := by
  have hr := r.isLt
  omega

/-- Settles O44: the error is that of the linear shape, and the ties are where its remainder is 0. -/
theorem decoderIsAccurateToHalfAHundredth : Obligations.DecoderIsAccurateToHalfAHundredth := by
  intro r
  obtain ⟨hT, htieT⟩ := linearDecode_accurate 17572 4685 r rfl
  obtain ⟨hH, htieH⟩ := linearDecode_accurate 12500 600 r rfl
  refine ⟨hT, hH, htieT.trans (tieT_iff r), htieH.trans (tieH_iff r), ?_⟩
  rw [decT_eq_hundredthsT, decH_eq_hundredthsH]
  exact ⟨fun h => h ▸ ⟨rfl, rfl⟩, fun h => h ▸ ⟨rfl, rfl⟩, fun h => h ▸ ⟨rfl, rfl⟩, fun h => h ▸ ⟨rfl, rfl⟩⟩

/-- Settles O45: the end values are evaluated, the rest holds of the linear shape. -/
theorem decoderFitsSixteenBitsAndIsMonotone : Obligations.DecoderFitsSixteenBitsAndIsMonotone := by
  have hT0 : decT 0x0000#16 = -4685 := by decide
  have hT1 : decT 0xFFFF#16 = 12887 := by decide
  have hH0 : decH 0x0000#16 = -600 := by decide
  have hH1 : decH 0xFFFF#16 = 11900 := by decide
  refine ⟨hT0, hT1, hH0, hH1, fun r => ⟨?fitsT, ?fitsH⟩,
    fun r r' h => ⟨linearDecode_mono 17572 4685 h, linearDecode_mono 12500 600 h⟩, by decide, by decide,
    fun v hlo hhi => linearDecode_reaches (by decide) (by decide) hlo hhi, rfl,
    fun v hlo hhi => linearDecode_reaches (by decide) (by decide) hlo hhi, rfl⟩
  case fitsT =>
    have hends : decT 0x0000#16 ≤ decT r ∧ decT r ≤ decT 0xFFFF#16 := linearDecode_between_ends 17572 4685 r
    exact s16_toInt (by omega) (by omega)
  case fitsH =>
    have hends : decH 0x0000#16 ≤ decH r ∧ decH r ≤ decH 0xFFFF#16 := linearDecode_between_ends 12500 600 r
    exact s16_toInt (by omega) (by omega)

/-! ### The words of format I -/

/-- The word of the immediate form is the opcode and the immediate (43_decoder.md R207, R208). -/
theorem formatI_imm (op : Byte) (r : Half) : formatI op (.imm r) = put op 24 ||| r.setWidth 32 := by simp [formatI, put]

theorem formatI_imm_toNat (op : Byte) (r : Half) : (formatI op (.imm r)).toNat = r.toNat + op.toNat * 2 ^ 24 := by
  have hr : (put r 0).toNat = r.toNat * 2 ^ 0 := put_toNat r (by decide)
  rw [formatI, put_or_toNat op _ (by decide) (by omega), hr, Nat.pow_zero, Nat.mul_one]

theorem formatI_buffer_toNat (op : Byte) : (formatI op .buffer).toNat = 2 ^ 23 + op.toNat * 2 ^ 24 := by
  have hb : (put 1#1 23).toNat = 2 ^ 23 := rfl
  rw [formatI, put_or_toNat op _ (by decide) (by omega), hb]

/-- What makes a word no word of format I: `imm16` beside `b = 1`, or one of the must-be-zero bits [22:16] (30_encoding.md R92, R93). -/
def OutsideFormatI (w : Word) : Prop :=
  (w.toNat / 0x800000 % 2 = 1 ∧ w.toNat % 0x10000 ≠ 0) ∨ w.toNat / 0x10000 % 128 ≠ 0

theorem formatI_not_outside (op : Byte) (src : RawSource) : ¬OutsideFormatI (formatI op src) := by
  unfold OutsideFormatI
  cases src with
  | imm r =>
    have hr := r.isLt
    rw [formatI_imm_toNat]
    omega
  | buffer =>
    rw [formatI_buffer_toNat]
    omega

/-- An opcode all of whose words are of format I rejects the words outside the format (30_encoding.md R95). -/
theorem rejected_of_outsideFormatI {op : Byte} {f : RawSource → Instr}
    (hf : ∀ {i : Instr}, i.opcode.toNat = op.toNat → ∃ src, i = f src) (henc : ∀ src, encode (f src) = formatI op src) {w : Word}
    (hop : w.toNat / 0x1000000 = op.toNat) (hw : OutsideFormatI w) : Rejected w := by
  refine rejected_of_decode fun i hd => ?_
  obtain ⟨src, rfl⟩ := hf ((decode_opcode hd).symm.trans hop)
  rw [← encode_decode hd, henc] at hw
  exact formatI_not_outside op src hw

theorem opcode_dect {i : Instr} (h : i.opcode.toNat = 0x10) : ∃ src, i = .dect src := by
  cases i <;> simp [Instr.opcode] at h ⊢

theorem opcode_dech {i : Instr} (h : i.opcode.toNat = 0x11) : ∃ src, i = .dech src := by
  cases i <;> simp [Instr.opcode] at h ⊢

/-! ### DECT and DECH -/

theorem decodeReading_imm (dec : Half → Int) (r : Half) (s : State) :
    decodeReading dec (.imm r) s = ended { s with raw := r, val := BitVec.ofInt 16 (dec r) } .none := rfl

theorem decodeReading_unreceived (dec : Half → Int) {s : State} (h : s.rlen < 2) :
    decodeReading dec .buffer s = ended s .illegalOp := by
  rw [decodeReading, State.rawOperand, if_pos h]
  rfl

/-- Two bytes received decode as the immediate they make (43_decoder.md R201). -/
theorem decodeReading_received (dec : Half → Int) {s : State} {r : Half} (h : 2 ≤ s.rlen)
    (hr : r.toNat = s.rb[0].toNat * 256 + s.rb[1].toNat) : decodeReading dec .buffer s = decodeReading dec (.imm r) s := by
  have hraw : s.bufferRaw = r := BitVec.eq_of_toNat_eq ((raw16Of_toNat _ _).trans hr.symm)
  rw [decodeReading, State.rawOperand, if_neg (Nat.not_lt.2 h), hraw]
  rfl

/-- The three cases of the operand: the immediate, bytes not received, bytes received. -/
theorem decodeReading_cases {dec : Half → Int} {hundredths : Nat → Int} (hdec : ∀ raw, dec raw = hundredths raw.toNat) (s : State)
    (r : Half) :
    decodeReading dec (.imm r) s = ended { s with raw := r, val := BitVec.ofInt 16 (hundredths r.toNat) } .none ∧
    (s.rlen < 2 → decodeReading dec .buffer s = ended s .illegalOp) ∧
    (2 ≤ s.rlen → r.toNat = s.rb[0].toNat * 256 + s.rb[1].toNat →
      decodeReading dec .buffer s = ended { s with raw := r, val := BitVec.ofInt 16 (hundredths r.toNat) } .none) := by
  have himm := decodeReading_imm dec r s
  rw [hdec] at himm
  exact ⟨himm, decodeReading_unreceived dec, fun h hr => (decodeReading_received dec h hr).trans himm⟩

/-- Settles O42: the words by format I, the meaning by the three cases of the operand. -/
theorem dectDecodesATemperature : Obligations.DectDecodesATemperature := by
  refine ⟨fun r => ?imm, rfl, fun w => rejected_of_outsideFormatI (op := 0x10#8) opcode_dect fun _ => rfl, fun s r => ?meaning⟩
  case imm => exact formatI_imm 0x10#8 r ▸ decode_encode (i := .dect (.imm r)) rfl
  case meaning =>
    obtain ⟨himm, hshort, hbuffer⟩ := decodeReading_cases decT_eq_hundredthsT s r
    exact ⟨congrArg _ himm, fun h => congrArg _ (hshort h), fun h hr => congrArg _ (hbuffer h hr)⟩

/-- Settles O43, as O42 with the humidity function. -/
theorem dechDecodesAHumidity : Obligations.DechDecodesAHumidity := by
  refine ⟨fun r => ?imm, rfl, fun w => rejected_of_outsideFormatI (op := 0x11#8) opcode_dech fun _ => rfl, fun s r => ?meaning⟩
  case imm => exact formatI_imm 0x11#8 r ▸ decode_encode (i := .dech (.imm r)) rfl
  case meaning =>
    obtain ⟨himm, hshort, hbuffer⟩ := decodeReading_cases decH_eq_hundredthsH s r
    exact ⟨congrArg _ himm, fun h => congrArg _ (hshort h), fun h hr => congrArg _ (hbuffer h hr)⟩

end Sys2Proof.Machine
end

section
/-! How operations end (60_exceptions.md R220 to R227, R235): what completion shows, what each error leaves on record, and the idle
block. -/

namespace Sys2Proof.Machine

/-- Settles O16, by the branch of `step` for a block that is idle and has no input left. -/
theorem idleBlockHoldsItsState : Obligations.IdleBlockHoldsItsState := by
  intro s hb hs
  simp [step, hs, hb]

/-! ### An operation finishes or waits inside a read -/

/-- `t` comes of `s` by completion, or it waits inside a read, with BUSY, DONE and ERR as `s` had them (60_exceptions.md R227). -/
def FinishesOrWaits (s t : State) : Prop :=
  (∃ (u : State) (e : ErrKind), t = u.finish e) ∨
    (t.inTransfer = true ∧ t.busy = s.busy ∧ t.done = s.done ∧ t.err = s.err)

theorem finish_finishesOrWaits (s u : State) (e : ErrKind) : FinishesOrWaits s (u.finish e) := .inl ⟨u, e, rfl⟩

/-- What comes before may have written anything but BUSY, DONE and ERR. -/
theorem FinishesOrWaits.after {s s' t : State} (h : FinishesOrWaits s' t) (busy : s'.busy = s.busy) (done : s'.done = s.done)
    (err : s'.err = s.err) : FinishesOrWaits s t := by
  obtain hfin | ⟨hin, hbusy, hdone, herr⟩ := h
  · exact .inl hfin
  · exact .inr ⟨hin, hbusy.trans busy, hdone.trans done, herr.trans err⟩

theorem xfer_pending_inTransfer {cmd : List Byte} {n : Nat} {rel : Bool} {s t : State} (hx : xfer cmd n rel s = .pending t) :
    t.inTransfer = true := by
  have h := xfer_withAnswers cmd n rel [] [] s
  rw [hx] at h
  exact h.left

/-- A read waits itself, or hands over to what follows it. -/
theorem conclude_finishesOrWaits (cmd : List Byte) (n : Nat) (rel : Bool) (s : State) {late good : State → State}
    (hlate : ∀ t, FinishesOrWaits t (late t)) (hgood : ∀ t, FinishesOrWaits t (good t)) :
    FinishesOrWaits s ((xfer cmd n rel s).conclude late good) := by
  have hk := xfer_keeps cmd n rel s
  cases hx : xfer cmd n rel s with
  | ok t =>
    rw [hx] at hk
    exact (hgood t).after hk.busy hk.done hk.err
  | timeout t =>
    rw [hx] at hk
    exact (hlate t).after hk.busy hk.done hk.err
  | pending t =>
    rw [hx] at hk
    exact .inr ⟨xfer_pending_inTransfer hx, hk.busy, hk.done, hk.err⟩

theorem concludeMeasurement_finishesOrWaits (dec : Half → Int) (s : State) : FinishesOrWaits s (concludeMeasurement dec s) := by
  rw [concludeMeasurement_eq]
  split <;> exact finish_finishesOrWaits s _ _

/-- What opens an operation leaves BUSY, DONE and ERR alone. -/
theorem FinishesOrWaits.opening {s t : State} {pre : State → State} (h : FinishesOrWaits (s.opening pre) t)
    (busy : (pre s).busy = s.busy) (done : (pre s).done = s.done) (err : (pre s).err = s.err) : FinishesOrWaits s t := by
  unfold State.opening at h
  split at h
  · exact h
  · exact h.after busy done err

theorem runMeasurement_finishesOrWaits (cmd : List Byte) (dec : Half → Int) (s : State) :
    FinishesOrWaits s (runMeasurement cmd dec s) :=
  (conclude_finishesOrWaits cmd 3 true (s.opening State.clearReading) (fun t => finish_finishesOrWaits t t _)
    (concludeMeasurement_finishesOrWaits dec)).opening rfl rfl rfl

theorem readUser_finishesOrWaits (rel : Bool) (s : State) {conclude : Byte → State → State}
    (hc : ∀ v t, FinishesOrWaits t (conclude v t)) : FinishesOrWaits s (readUser rel conclude s) :=
  conclude_finishesOrWaits cmdReadUser 1 rel s (hc 0#8) (fun t => hc t.rb[0] t)

theorem concludeSerial_finishesOrWaits (s : State) : FinishesOrWaits s (concludeSerial s) := by
  rw [concludeSerial_eq]
  split <;> exact finish_finishesOrWaits s _ _

theorem serialPageB_finishesOrWaits (s : State) : FinishesOrWaits s (serialPageB s) :=
  conclude_finishesOrWaits cmdPageB 6 true s (fun t => finish_finishesOrWaits t t _) concludeSerial_finishesOrWaits

theorem afterPageA_finishesOrWaits (s : State) : FinishesOrWaits s (afterPageA s) := by
  obtain ⟨a, c, e⟩ := checkPage_writes (pageAChecks s.rb) s
  rw [afterPageA_eq, e]
  split
  · exact (serialPageB_finishesOrWaits _).after rfl rfl rfl
  · exact finish_finishesOrWaits s _ _

theorem readSerial_finishesOrWaits (s : State) : FinishesOrWaits s (readSerial s) := by
  unfold readSerial
  split
  · exact conclude_finishesOrWaits cmdPageA 8 true s (fun t => finish_finishesOrWaits t t _) afterPageA_finishesOrWaits
  · exact serialPageB_finishesOrWaits s

theorem decodeReading_finishesOrWaits (dec : Half → Int) (src : RawSource) (s : State) :
    FinishesOrWaits s (decodeReading dec src s) := by
  unfold decodeReading
  split <;> exact finish_finishesOrWaits s _ _

/-- Every operation answers a next state, and finishes or waits there. -/
theorem exec_finishesOrWaits (i : Instr) (s : State) : ∃ t, exec i s = .next t ∧ FinishesOrWaits s t := by
  have hfin (u : State) (e : ErrKind) := finish_finishesOrWaits s u e
  cases i with
  | xfer cmd n rel =>
    exact ⟨_, exec_xfer cmd n rel s, conclude_finishesOrWaits (cmdBytes cmd) n rel s (fun t => finish_finishesOrWaits t t _)
      (fun t => finish_finishesOrWaits t t _)⟩
  | xwr _ | crci | crcb _ | crcv _ | srst => exact ⟨_, rfl, hfin _ _⟩
  | crcr off n => exact ⟨_, rfl, by split <;> exact hfin _ _⟩
  | dect src => exact ⟨_, rfl, decodeReading_finishesOrWaits decT src s⟩
  | dech src => exact ⟨_, rfl, decodeReading_finishesOrWaits decH src s⟩
  | meast => exact ⟨_, rfl, runMeasurement_finishesOrWaits cmdTemperature decT s⟩
  | meash => exact ⟨_, rfl, runMeasurement_finishesOrWaits cmdHumidity decH s⟩
  | rdur rel =>
    exact ⟨_, exec_rdur rel s, readUser_finishesOrWaits rel s fun _ t => finish_finishesOrWaits t _ _⟩
  | setres code =>
    exact ⟨_, exec_setres code s, readUser_finishesOrWaits false s fun _ t => finish_finishesOrWaits t _ _⟩
  | rdsn => exact ⟨_, rfl, (readSerial_finishesOrWaits (s.opening State.clearSerial)).opening rfl rfl rfl⟩

theorem inTransfer_iff {s : State} : s.inTransfer = true ↔ s.ph = .req ∨ s.ph = .poll := by
  unfold State.inTransfer
  cases s.ph <;> simp

/-- Settles O18: OP by the operation's frame, the rest by its two ways to leave a step. -/
theorem completionRaisesDoneAndReturnsToIdle : Obligations.CompletionRaisesDoneAndReturnsToIdle := by
  intro i s hb
  obtain ⟨t, ht, hend⟩ := exec_finishesOrWaits i s
  obtain ⟨hop, -⟩ := exec_frame ht .fixed (fixed_notMem_writes i)
  refine ⟨t, ht, hop, ?_⟩
  obtain ⟨u, e, rfl⟩ | ⟨hin, hbusy, hdone, herr⟩ := hend
  · exact ⟨fun _ => ⟨rfl, rfl⟩, fun hrun => by simp at hrun⟩
  · exact ⟨fun hidle => by simp [hbusy, hb] at hidle, fun _ => ⟨hdone, herr, inTransfer_iff.1 hin⟩⟩

/-! ### What an error leaves on record -/

/-- What the state `t` must hold where operation `i` has ended with the error (60_exceptions.md R221 to R224). -/
def OnRecord (i : Instr) (t : State) : ErrKind → Prop
  | .none => True
  | .timeout => t.rb = padded [] ∧ t.rlen = 0 ∧ t.held = true ∧
      (i = .meast ∨ i = .meash ∨ i = .rdsn ∨ ∃ cmd n rel, i = .xfer cmd n rel)
  | .checksumMismatch => t.crcok = false ∧
      ((t.rlen = 3 ∧ (i = .meast ∨ i = .meash)) ∨ ((t.rlen = 8 ∨ t.rlen = 6) ∧ i = .rdsn))
  | .deviceAbsent => t.urd = 0x00#8 ∧ (t.rlen = 0 ∨ (t.rlen = 1 ∧ t.rb[0] = 0x00#8)) ∧
      ((∃ rel, i = .rdur rel) ∨ ∃ code, i = .setres code)
  | .illegalOp => (∃ off n, i = .crcr off n) ∨ i = .dect .buffer ∨ i = .dech .buffer

/-- The error `t` shows is on record as the rules have it. -/
def RecordsItsError (i : Instr) (t : State) : Prop := OnRecord i t t.err

theorem finish_none_records (i : Instr) (u : State) : RecordsItsError i (u.finish .none) := trivial

theorem readTimedOut_records {i : Instr} (hi : i = .meast ∨ i = .meash ∨ i = .rdsn ∨ ∃ cmd n rel, i = .xfer cmd n rel) (u : State) :
    RecordsItsError i (u.readTimedOut.finish .timeout) := ⟨padded_nil.symm, rfl, rfl, hi⟩

theorem concludeMeasurement_records {i : Instr} (hi : i = .meast ∨ i = .meash) (dec : Half → Int) (u : State) :
    RecordsItsError i (concludeMeasurement dec (u.readDone 3 true)) := by
  rw [concludeMeasurement_eq]
  split
  · exact finish_none_records i _
  · next hbad => exact ⟨Bool.eq_false_of_not_eq_true hbad, .inl ⟨rfl, hi⟩⟩

theorem runMeasurement_records {i : Instr} (hi : i = .meast ∨ i = .meash) {cmd : List Byte} {dec : Half → Int} {s : State}
    (hb : s.busy = true) (ht : (runMeasurement cmd dec s).busy = false) : RecordsItsError i (runMeasurement cmd dec s) :=
  conclude_ended (P := RecordsItsError i) ((opening_busy s rfl).trans hb)
    (fun u _ => readTimedOut_records (hi.imp_right .inl) u) (fun u _ => concludeMeasurement_records hi dec u) ht

/-- RDUR and SETRES end with DeviceAbsent only where the byte they were given is 0 (60_exceptions.md R223). -/
theorem finish_absence_records {i : Instr} (hi : (∃ rel, i = .rdur rel) ∨ ∃ code, i = .setres code) {v : Byte} {u : State}
    (hurd : u.urd = v) (hbuf : u.rlen = 0 ∨ (u.rlen = 1 ∧ u.rb[0] = v)) : RecordsItsError i (u.finish (absence v)) := by
  by_cases hv : v = 0#8
  · subst hv
    exact ⟨hurd, hbuf, hi⟩
  · rw [absence, if_neg hv]
    exact finish_none_records i u

/-- The byte a read of the user register gives is 0 after a timeout, else the one byte received (42_protocol.md R175). -/
theorem readUser_records {i : Instr} {rel : Bool} {s : State} (hb : s.busy = true) {conclude : Byte → State → State}
    (hc : ∀ (v : Byte) (u : State), u.rlen = 0 ∨ (u.rlen = 1 ∧ u.rb[0] = v) → RecordsItsError i (conclude v u))
    (ht : (readUser rel conclude s).busy = false) : RecordsItsError i (readUser rel conclude s) :=
  conclude_ended (P := RecordsItsError i) hb (fun u _ => hc 0#8 u.readTimedOut (.inl rfl))
    (fun u _ => hc u.rb[0] (u.readDone 1 rel) (.inr ⟨rfl, rfl⟩)) ht

/-- Validations that did not all pass leave CRCOK 0. -/
theorem validateAll_failed {checks : List (List Byte × Byte)} {s : State} (h : (validateAll checks s).2 = false) :
    (validateAll checks s).1.crcok = false := by
  induction checks generalizing s with
  | nil => simp [validateAll] at h
  | cons check rest ih =>
    obtain ⟨data, expected⟩ := check
    rw [validateAll] at h ⊢
    split at h
    · next hfit =>
      rw [if_pos hfit]
      exact ih h
    · next hbad =>
      rw [if_neg hbad]
      exact Bool.eq_false_of_not_eq_true hbad

theorem checkPage_failed {checks : List (List Byte × Byte)} {s : State} (h : (checkPage checks s).2 = false) :
    (checkPage checks s).1.crcok = false := by
  unfold checkPage at h ⊢
  split at h
  · next hcheck =>
    rw [if_pos hcheck]
    exact validateAll_failed h
  · simp at h

/-- A page of RDSN ends with ChecksumMismatch where its validations failed, RLEN still the page's length (60_exceptions.md R222). -/
theorem checkPage_failed_records {checks : List (List Byte × Byte)} {s : State} (hlen : s.rlen = 8 ∨ s.rlen = 6)
    (h : ¬(checkPage checks s).2 = true) : RecordsItsError .rdsn ((checkPage checks s).1.finish .checksumMismatch) := by
  obtain ⟨a, c, e⟩ := checkPage_writes checks s
  have hkept : (checkPage checks s).1.rlen = s.rlen := by rw [e]
  exact ⟨checkPage_failed (Bool.eq_false_of_not_eq_true h), .inr ⟨hkept ▸ hlen, rfl⟩⟩

theorem rdsn_timeout_records (u : State) : RecordsItsError .rdsn (u.readTimedOut.finish .timeout) :=
  readTimedOut_records (.inr (.inr (.inl rfl))) u

theorem concludeSerial_records (u : State) : RecordsItsError .rdsn (concludeSerial (u.readDone 6 true)) := by
  rw [concludeSerial_eq]
  split
  · exact finish_none_records _ _
  · next hbad => exact checkPage_failed_records (.inr rfl) hbad

theorem serialPageB_records {s : State} (hb : s.busy = true) (ht : (serialPageB s).busy = false) :
    RecordsItsError .rdsn (serialPageB s) :=
  conclude_ended (P := RecordsItsError .rdsn) hb (fun u _ => rdsn_timeout_records u) (fun u _ => concludeSerial_records u) ht

theorem afterPageA_records {u : State} (hb : u.busy = true) (ht : (afterPageA (u.readDone 8 true)).busy = false) :
    RecordsItsError .rdsn (afterPageA (u.readDone 8 true)) := by
  obtain ⟨a, c, e⟩ := checkPage_writes (pageAChecks u.rb) (u.readDone 8 true)
  rw [afterPageA_eq] at ht ⊢
  split at ht
  · next hfit =>
    rw [if_pos hfit]
    exact serialPageB_records (by simp [e, hb]) ht
  · next hbad =>
    rw [if_neg hbad]
    exact checkPage_failed_records (.inl rfl) hbad

theorem readSerial_records {s : State} (hb : s.busy = true) (ht : (readSerial s).busy = false) :
    RecordsItsError .rdsn (readSerial s) := by
  cases hp : s.page with
  | a =>
    rw [readSerial_pageA hp, serialPageA_eq] at ht ⊢
    exact conclude_ended (P := fun t => t.busy = false → RecordsItsError .rdsn t) hb (fun u _ _ => rdsn_timeout_records u)
      (fun u hu => afterPageA_records hu) ht ht
  | b =>
    rw [readSerial_pageB hp] at ht ⊢
    exact serialPageB_records hb ht

/-- Only the form `.B` can lack its operand (43_decoder.md R207, R208). -/
theorem decodeReading_records {i : Instr} {src : RawSource} (hi : src = .buffer → i = .dect .buffer ∨ i = .dech .buffer)
    (dec : Half → Int) (s : State) : RecordsItsError i (decodeReading dec src s) := by
  unfold decodeReading
  cases src with
  | imm raw => exact finish_none_records i _
  | buffer =>
    split
    · exact .inr (hi rfl)
    · exact finish_none_records i _

/-- An operation that has ended has its error on record. -/
theorem exec_records {i : Instr} {s t : State} (hb : s.busy = true) (he : exec i s = .next t) (ht : t.busy = false) :
    RecordsItsError i t := by
  cases i with
  | xfer cmd n rel =>
    cases he
    exact conclude_ended (P := RecordsItsError (.xfer cmd n rel)) hb
      (fun u _ => readTimedOut_records (.inr (.inr (.inr ⟨cmd, n, rel, rfl⟩))) u) (fun u _ => finish_none_records _ _) ht
  | xwr _ | crci | crcb _ | crcv _ | srst =>
    cases he
    exact finish_none_records _ _
  | crcr off n =>
    cases he
    split
    · exact .inl ⟨off, n, rfl⟩
    · exact finish_none_records _ _
  | dect src =>
    cases he
    exact decodeReading_records (fun hsrc => .inl (congrArg _ hsrc)) decT s
  | dech src =>
    cases he
    exact decodeReading_records (fun hsrc => .inr (congrArg _ hsrc)) decH s
  | meast =>
    cases he
    exact runMeasurement_records (.inl rfl) hb ht
  | meash =>
    cases he
    exact runMeasurement_records (.inr rfl) hb ht
  | rdur rel =>
    cases he
    exact readUser_records hb (fun v u hbuf => finish_absence_records (.inl ⟨rel, rfl⟩) rfl hbuf) ht
  | setres code =>
    cases he
    exact readUser_records hb (fun v u hbuf => finish_absence_records (.inr ⟨code, rfl⟩) rfl hbuf) ht
  | rdsn =>
    cases he
    exact readSerial_records ((opening_busy s rfl).trans hb) ht

/-- Settles O57: each clause is the record of the error that `t` shows. -/
theorem errorsLeaveTheirRecord : Obligations.ErrorsLeaveTheirRecord := by
  intro i s t _ hb he ht
  have h (e : ErrKind) (herr : t.err = e) : OnRecord i t e := herr ▸ exec_records hb he ht
  exact ⟨h .timeout, h .checksumMismatch, h .deviceAbsent, h .illegalOp⟩

end Sys2Proof.Machine
end

section
/-! Reset and what the host writes while an operation runs (70_reset_and_hazards.md R260, R264, R280): reset wherever it comes, the
dropped word, and the operations that ask the environment nothing. -/

namespace Sys2Proof.Machine

/-! ### Words written to OP that start no operation -/

/-- A running block ignores every write (10_state.md R22). -/
theorem hostWrite_busy {s : State} (hb : s.busy = true) (off : Nat) (v : Word) : hostWrite off v s = .next s :=
  if_neg (by simp [State.startsOperation, hb])

theorem issue_rejected {w : Word} (h : Rejected w) (s : State) : issue w s = .next (s.rejectWord w) := by
  obtain ⟨why, hd⟩ := h
  simp only [issue, hd]

/-- A word makes no bus call where an operation runs already or the word is illegal. -/
theorem hostWrite_quiet {s t : State} {off : Nat} {w : Word} (h : s.busy = true ∨ Rejected w)
    (ht : hostWrite off w s = .next t) : t.events = s.events := by
  unfold hostWrite at ht
  split at ht
  case isTrue hstart =>
    obtain ⟨-, hidle⟩ : off = 0 ∧ s.busy = false := by simpa [State.startsOperation] using hstart
    have hw : Rejected w := h.resolve_left (by simp [hidle])
    cases (issue_rejected hw s).symm.trans ht
    rfl
  case isFalse =>
    cases ht
    rfl

/-- Settles O9: the write starts no operation. -/
theorem wordWrittenWhileBusyIsDropped : Obligations.WordWrittenWhileBusyIsDropped := by
  intro s w rest hb hs
  exact (step_write hs rfl (by decide)).trans (hostWrite_busy (s := { s with script := rest }) hb 0 w)

/-! ### Reset at rest -/

/-- Settles O20: the step is `hardReset`, which leaves the reset values and the environment's answers. -/
theorem resetClearsTheBlockAndNothingElse : Obligations.ResetClearsTheBlockAndNothingElse := by
  intro s rest hs
  obtain ⟨op, busy, done, crcok, held, err, rlen, rb, raw, val, sn, urd, urw, acc, t0, ph⟩ :=
    hardReset_atReset { s with script := rest }
  exact ⟨_, step_input hs, op, busy, done, crcok, held, err, rlen, fun i h => ⟨rb i h, sn i h⟩, raw, val, urd, urw, acc, t0, ph,
    rfl, rfl, rfl, rfl, rfl, rfl⟩

/-! ### What the block does with an operation is always a next state -/

/-- `run` answers a next state from every state. -/
def Answering (run : State → Host.Outcome State Fault Refusal) : Prop := ∀ s, ∃ t, run s = .next t

theorem exec_answering (i : Instr) : Answering (exec i) := by
  intro s
  obtain ⟨t, ht, -⟩ := exec_finishesOrWaits i s
  exact ⟨t, ht⟩

theorem issue_answering (w : Word) : Answering (issue w) := by
  intro s
  unfold issue
  split
  · exact exec_answering _ _
  · exact ⟨_, rfl⟩

theorem resume_answering : Answering resume := by
  intro s
  unfold resume
  split
  · exact exec_answering _ s
  · exact ⟨_, rfl⟩

theorem proceed_answering : Answering proceed := by
  intro s
  unfold proceed
  split
  · exact resume_answering s
  · exact ⟨s, rfl⟩

theorem hostWrite_answering (off : Nat) (v : Word) : Answering (hostWrite off v) := by
  intro s
  unfold hostWrite
  split
  · exact issue_answering v s
  · exact ⟨s, rfl⟩

/-! ### Reset inside an operation -/

theorem proceed_idle_quiet {s t : State} (hb : s.busy = false) (ht : proceed s = .next t) : t.events = s.events := by
  have hidle : proceed s = .next s := if_neg (by simp [hb])
  cases hidle.symm.trans ht
  rfl

/-- Reset inside what `run` does keeps the first `k` of the calls `run` would have made, and leaves the reset values; where `run` makes
no call there is none to keep. -/
theorem thenReset_abandons {run : State → Host.Outcome State Fault Refusal} (hans : Answering run) (hadv : Advancing run) (k : Nat)
    (s : State) {Quiet : Prop} (hquiet : Quiet → ∀ t, run s = .next t → t.events = s.events) :
    ∃ (t u : State) (evs : List Event), run s = .next u ∧ u.events = s.events ++ evs ∧ thenReset k run s = .next t ∧
      ResetAfter s t (evs.take k) s.rx s.clock s.script ∧ (Quiet → evs = []) := by
  obtain ⟨u, hu⟩ := hans s
  obtain ⟨-, evs, he, -⟩ := hadv s u hu
  have hmade : u.events.drop s.events.length = evs := by simp [he]
  exact ⟨s.cutShort k u, u, evs, hu, he, thenReset_of_next hu, hmade ▸ cutShort_resetAfter s u k,
    fun hq => List.append_right_eq_self.1 (he.symm.trans (hquiet hq u hu))⟩

/-- Settles O21, by `thenReset_abandons` for the write to OP. -/
theorem resetAbandonsARunningOperation : Obligations.ResetAbandonsARunningOperation := by
  intro s w k rest hs
  obtain ⟨t, u, evs, hu, he, ht, hreset, hnone⟩ := thenReset_abandons (hostWrite_answering 0 w) (hostWrite_advancing 0 w) k
    { s with script := rest } fun (h : s.busy = true ∨ Rejected w) _ => hostWrite_quiet h
  exact ⟨t, u, evs, (step_write rfl rfl (by decide)).trans hu, he, (step_input hs).trans ht, { hreset with }, hnone⟩

/-- Settles O22, by `thenReset_abandons` for the operation that goes on with the answers. -/
theorem resetAbandonsAResumedOperation : Obligations.ResetAbandonsAResumedOperation := by
  intro s rx clk k rest hs
  obtain ⟨t, u, evs, hu, he, ht, hreset, hnone⟩ := thenReset_abandons proceed_answering proceed_advancing k
    { s with script := rest, rx := s.rx ++ rx, clock := s.clock ++ clk } fun (h : s.busy = false) _ => proceed_idle_quiet h
  exact ⟨t, u, evs, (step_answers rfl).trans hu, he, (step_input hs).trans ht, { hreset with }, hnone⟩

/-! ### Operations without a read -/

/-- Only an operation with a read moves the buffer and the answers. -/
theorem buffer_notMem_writes {i : Instr} {page : Page} (h : readLength page i = none) : .buffer ∉ writesOf i := by
  cases i with
  | rdsn => cases page <;> cases h
  | xfer _ _ _ | meast | meash | rdur _ | setres _ => cases h
  | xwr _ | crci | crcb _ | crcv _ | crcr _ _ | dect _ | dech _ | srst => simp [writesOf]

theorem decodeReading_finishes (dec : Half → Int) (src : RawSource) (s : State) :
    ∃ u e, decodeReading dec src s = State.finish u e := by
  unfold decodeReading
  split <;> exact ⟨_, _, rfl⟩

/-- Without a read there is nothing to wait for. -/
theorem exec_finishes {i : Instr} {page : Page} (h : readLength page i = none) (s : State) :
    ∃ u e, exec i s = .next (State.finish u e) := by
  cases i with
  | rdsn => cases page <;> cases h
  | xfer _ _ _ | meast | meash | rdur _ | setres _ => cases h
  | xwr _ | crci | crcb _ | crcv _ | srst => exact ⟨_, _, rfl⟩
  | crcr off n =>
    rcases Nat.lt_or_ge (off + n) s.rlen with hlt | hle
    · exact ⟨_, _, exec_crcr_received hlt⟩
    · exact ⟨_, _, exec_crcr_notReceived hle⟩
  | dect src =>
    obtain ⟨u, e, hu⟩ := decodeReading_finishes decT src s
    exact ⟨u, e, congrArg _ hu⟩
  | dech src =>
    obtain ⟨u, e, hu⟩ := decodeReading_finishes decH src s
    exact ⟨u, e, congrArg _ hu⟩

/-- Settles O59: the operation finishes, and its frame holds the answers and, but for XWR and SRST, the events. -/
theorem operationsWithoutAReadCompleteAtOnce : Obligations.OperationsWithoutAReadCompleteAtOnce := by
  intro i s hread
  have hbuffer := buffer_notMem_writes hread
  obtain ⟨u, e, hu⟩ := exec_finishes hread s
  obtain ⟨-, -, -, hrx, hclock, -⟩ := exec_frame hu .buffer hbuffer
  refine ⟨u.finish e, hu, rfl, rfl, hrx, hclock, fun hxwr hsrst => ?_⟩
  obtain ⟨-, hevents⟩ := exec_frame hu .bus (by simp [bus_mem_writes, hbuffer, hxwr, hsrst])
  exact hevents

end Sys2Proof.Machine
end

section
/-! Progress (93 U8, U9; log 5): a waiting read that has an answer of the transport and one of the clock makes a bus call, and what
the operation does after its read takes no call back. -/

namespace Sys2Proof.Machine

theorem Advances.events_length_le {s t : State} (h : Advances s t) : s.events.length ≤ t.events.length := by
  obtain ⟨-, evs, he, -⟩ := h
  simp [he]

/-! ### A read with answers at hand makes a call -/

/-- The first answer of the transport is a byte, or an empty poll that also takes the clock's answer. -/
theorem pollLoop_calls {n : Nat} (rel : Bool) {s : State} (hc : s.cnt ≠ n) (hrx : s.rx ≠ []) (hclk : s.clock ≠ []) :
    s.events.length < (pollLoop n rel s.rx s).state.events.length := by
  obtain ⟨a, l, hr⟩ := List.exists_cons_of_ne_nil hrx
  obtain ⟨t, ts, hk⟩ := List.exists_cons_of_ne_nil hclk
  rw [hr]
  cases a with
  | some b =>
    rw [pollLoop_byte n rel b l s hc]
    exact lt_of_lt_of_le (by simp) (pollLoop_advances n rel (s.takeByte b l)).events_length_le
  | none =>
    cases he : timedOut s.params.w s.t0 (s.sampled t) with
    | true =>
      rw [pollLoop_late n rel l s t ts hc hk he]
      simp
    | false =>
      rw [pollLoop_early n rel l s t ts hc hk he]
      exact lt_of_lt_of_le (by simp) (pollLoop_advances n rel (s.pollEmpty l t ts)).events_length_le

/-- The first call is the poll's, or the sample of T0 (41_transfer.md R143). -/
theorem transfer_calls {n : Nat} (rel : Bool) {s : State} (hc : s.cnt ≠ n) (hrx : s.rx ≠ []) (hclk : s.clock ≠ []) :
    s.events.length < (transfer n rel s).state.events.length :=
  transfer_cases (motive := fun r => s.events.length < r.state.events.length)
    (fun _ => pollLoop_calls rel hc hrx hclk) (fun hnil => absurd hnil hclk)
    (fun t ts _ => lt_of_lt_of_le (by simp) (pollLoop_advances n rel (s.sampleStart t ts)).events_length_le)

/-! ### An operation that waits goes on with its read -/

theorem xfer_waiting {s : State} (hs : s.inTransfer = true) (cmd : List Byte) (n : Nat) (rel : Bool) :
    xfer cmd n rel s = transfer n rel s := by
  simp [xfer, hs]

theorem opening_waiting {s : State} (hs : s.inTransfer = true) (pre : State → State) : s.opening pre = s := if_pos hs

theorem conclude_waiting_advances {s : State} (hs : s.inTransfer = true) (cmd : List Byte) (n : Nat) (rel : Bool)
    {late good : State → State} (hlate : ∀ t, Advances t (late t)) (hgood : ∀ t, Advances t (good t)) :
    Advances (transfer n rel s).state ((xfer cmd n rel s).conclude late good) := by
  rw [xfer_waiting hs]
  cases transfer n rel s with
  | ok t => exact hgood t
  | timeout t => exact hlate t
  | pending t => exact .refl t

theorem runMeasurement_waiting_advances {s : State} (hs : s.inTransfer = true) (cmd : List Byte) (dec : Half → Int) :
    Advances (transfer 3 true s).state (runMeasurement cmd dec s) := by
  rw [runMeasurement_eq, opening_waiting hs]
  exact conclude_waiting_advances hs cmd 3 true (finish_advances .timeout) (concludeMeasurement_advances dec)

theorem readUser_waiting_advances {s : State} (hs : s.inTransfer = true) (rel : Bool) {conclude : Byte → State → State}
    (hc : ∀ v t, Advances t (conclude v t)) : Advances (transfer 1 rel s).state (readUser rel conclude s) :=
  conclude_waiting_advances hs cmdReadUser 1 rel (hc 0#8) (fun t => hc t.rb[0] t)

/-- RDSN waits in the read of the page it stands at (42_protocol.md R177). -/
theorem readSerial_waiting_advances {n : Nat} {s : State} (hs : s.inTransfer = true)
    (hl : readLength s.page .rdsn = some n) : Advances (transfer n true s).state (readSerial s) := by
  cases hp : s.page with
  | a =>
    obtain rfl : 8 = n := by simpa [readLength, hp] using hl
    rw [readSerial_pageA hp]
    exact conclude_waiting_advances hs cmdPageA 8 true (finish_advances .timeout) afterPageA_advances
  | b =>
    obtain rfl : 6 = n := by simpa [readLength, hp] using hl
    rw [readSerial_pageB hp]
    exact conclude_waiting_advances hs cmdPageB 6 true (finish_advances .timeout) concludeSerial_advances

/-- What a waiting operation leaves comes after the end of the read it waits in. -/
theorem exec_waiting_advances {i : Instr} {n : Nat} {s : State} (hs : s.inTransfer = true)
    (hl : readLength s.page i = some n) : ∃ rel t, exec i s = .next t ∧ Advances (transfer n rel s).state t := by
  cases i with
  | xwr _ | crci | crcb _ | crcv _ | crcr _ _ | dect _ | dech _ | srst => cases hl
  | xfer cmd _ rel =>
    cases hl
    exact ⟨rel, _, exec_xfer cmd n rel s,
      conclude_waiting_advances hs (cmdBytes cmd) n rel (finish_advances .timeout) (finish_advances .none)⟩
  | meast =>
    cases hl
    exact ⟨true, _, exec_meast s, runMeasurement_waiting_advances hs cmdTemperature decT⟩
  | meash =>
    cases hl
    exact ⟨true, _, exec_meash s, runMeasurement_waiting_advances hs cmdHumidity decH⟩
  | rdur rel =>
    cases hl
    exact ⟨rel, _, exec_rdur rel s, readUser_waiting_advances hs rel fun _ _ => .quiet rfl rfl⟩
  | setres code =>
    cases hl
    exact ⟨false, _, exec_setres code s, readUser_waiting_advances hs false (concludeSetres_advances code)⟩
  | rdsn =>
    rw [exec_rdsn, opening_waiting hs]
    exact ⟨true, _, rfl, readSerial_waiting_advances hs hl⟩

/-! ### The step with free answers -/

theorem State.withFreeAnswers_rx_ne_nil (s : State) : s.withFreeAnswers.rx ≠ [] := by
  cases h : s.rx <;> simp [h]

theorem State.withFreeAnswers_clock_ne_nil (s : State) : s.withFreeAnswers.clock ≠ [] := by
  cases h : s.clock <;> simp [h]

theorem step_free {s : State} {i : Instr} (hb : s.busy = true) (hs : s.script = []) (hd : decode s.op = .ok i) :
    step s = exec i s.withFreeAnswers := by
  simp [step, hs, hb, resume, hd]

/-- Settles O17: the invariant has the operation inside a read with bytes missing, and the free answers let that read make a call. -/
theorem freeAnswersMakeProgress : Obligations.FreeAnswersMakeProgress := by
  intro s h hb hs
  have hph := h.busy_iff.1 hb
  obtain ⟨i, n, hd, hl, hc, -⟩ := h.running hph
  have hin : s.withFreeAnswers.inTransfer = true := inTransfer_iff.2 (h.waits.resolve_left hph)
  obtain ⟨rel, t, ht, hadv⟩ := exec_waiting_advances (s := s.withFreeAnswers) hin hl
  have hcalls : s.events.length < (transfer n rel s.withFreeAnswers).state.events.length :=
    transfer_calls rel (s := s.withFreeAnswers) hc.ne s.withFreeAnswers_rx_ne_nil s.withFreeAnswers_clock_ne_nil
  exact ⟨t, (step_free hb hs hd).trans ht, hcalls.trans_le hadv.events_length_le⟩

end Sys2Proof.Machine
end
